-- ==== Sys2Proof/Word.lean ====
section
/-! DEFINITION. The word types of the engine: 32-bit addresses and command words (R70, R100), 8-bit data (R25, R75),
and the narrow registers of `10_state.md` whose contents the spec treats as bits. -/

namespace Sys2Proof

/-- A command word, an operand word, a memory address or a descriptor word (R70, R100, R107). -/
abbrev Word := BitVec 32

/-- A byte of memory or of the bus (R70, R111). -/
abbrev Byte := BitVec 8

/-- A channel index: the 8-bit `CH` field of a packet, of a response and of `m_ch` (R24, R101, R104). -/
abbrev ChIdx := BitVec 8

/-- A 7-bit bus address (R24, R26). -/
abbrev BusAddr := BitVec 7

/-- An element or byte counter, 11 bits: `ch_rem`, `m_len`, `m_k` (R22, R24). -/
abbrev Count := BitVec 11

/-- An event or fault code of the slave, 4 bits: `s_pend`, `s_fault_code` (R29, R32, R106). -/
abbrev EvCode := BitVec 4

end Sys2Proof
end

