-- ==== Sys2Proof/Syntax.lean ====
section
/-! DEFINITION. The ten host operations as terms, one constructor per row of the opcode table (R2, R102, R103), and the
command packet that carries one (R100). -/

namespace Sys2Proof

/-- The Transfer of the source, "{channel, source, destination, count, width}" with its trigger: the operand set of CH.ARM
apart from the channel (R102). `width` is the 2-bit WIDTH code and `trig` the 8-bit TRIG code, as numbers. -/
structure Transfer where
  width  : Nat
  srcInc : Bool
  dstInc : Bool
  trig   : Nat
  src    : Word
  srcLen : Word
  dst    : Word
  dstLen : Word
  count  : Word
  deriving DecidableEq, Repr

/-- The host operations (R2, R103). `addr` is the 16-bit `addr16` as a number, wide enough that an out-of-range bus
address can be expressed (R102). -/
inductive Instr where
  | dmaEnable (base : Word)
  | chTake (c : ChIdx)
  | chArm (c : ChIdx) (t : Transfer)
  | chWait (c : ChIdx)
  | mWriteAll (addr : Nat) (ptr len : Word) (c : ChIdx)
  | mReadAll (addr : Nat) (ptr len : Word) (c : ChIdx)
  | mStart
  | mWait
  | sEnable (addr : Nat)
  | sService
  deriving DecidableEq, Repr

/-- The mnemonic of an operation, as the opcode table spells it (R103). -/
def Instr.mnemonic : Instr → String
  | .dmaEnable _ => "DMA.ENABLE"
  | .chTake _ => "CH.TAKE"
  | .chArm _ _ => "CH.ARM"
  | .chWait _ => "CH.WAIT"
  | .mWriteAll _ _ _ _ => "M.WRITE_ALL"
  | .mReadAll _ _ _ _ => "M.READ_ALL"
  | .mStart => "M.START"
  | .mWait => "M.WAIT"
  | .sEnable _ => "S.ENABLE"
  | .sService => "S.SERVICE"

/-- The value of the packet's `CH` field: the channel of an operation that names one, else 0 (R101, R102). -/
def Instr.chField : Instr → ChIdx
  | .dmaEnable _ => 0
  | .chTake c => c
  | .chArm c _ => c
  | .chWait c => c
  | .mWriteAll _ _ _ c => c
  | .mReadAll _ _ _ c => c
  | .mStart => 0
  | .mWait => 0
  | .sEnable _ => 0
  | .sService => 0

/-- A command packet: the command word and its operand words (R100). -/
structure Packet where
  word0    : Word
  operands : List Word
  deriving DecidableEq, Repr

end Sys2Proof
end

