-- ==== Sys2Proof/WellFormed.lean ====
section
/-! DEFINITION. Which operation terms have an encoding: every number must fit the field that carries it (R101, R102).
A reserved VALUE in a legal packet (WIDTH 3, TRIG 1..255, `addr16` above 127, `CH` above the last channel) is well-formed:
it is a configuration error of the operation and not an illegal command (R113). -/

namespace Sys2Proof

/-- A Transfer's codes fit `IMM[1:0]` and `IMM[15:8]` (R102). -/
def Transfer.wf (t : Transfer) : Bool :=
  decide (t.width < 4) && decide (t.trig < 256)

/-- An operation's operands fit their fields (R101, R102). -/
def Instr.wf : Instr → Bool
  | .dmaEnable _ => true
  | .chTake _ => true
  | .chArm _ t => t.wf
  | .chWait _ => true
  | .mWriteAll addr _ _ _ => decide (addr < 65536)
  | .mReadAll addr _ _ _ => decide (addr < 65536)
  | .mStart => true
  | .mWait => true
  | .sEnable addr => decide (addr < 65536)
  | .sService => true

end Sys2Proof
end

