-- ==== Sys2Proof/Decode.lean ====
section
/-! DEFINITION. Decoding of command packets (R100 to R103, R112, R116, R117) and, after it, the encoder written from the
same tables. Decoding is total on any words and rejects an illegal packet by answering none. -/

namespace Sys2Proof

/-- The ten operation codes of R103. -/
inductive Opcode where
  | dmaEnable | chTake | chArm | chWait | mWriteAll | mReadAll | mStart | mWait | sEnable | sService
  deriving DecidableEq, Repr

/-- One row of the opcode map: a word `w` selects it when `w AND mask = pattern`; `operands` is the number of operand words
that follow (R102, R103). -/
structure OpRow where
  op       : Opcode
  pattern  : Word
  mask     : Word
  operands : Nat
  deriving DecidableEq, Repr

/-- The opcode map (R103), with the operand word counts of R102. -/
def opRows : List OpRow :=
  [⟨.dmaEnable, 0x01000000#32, 0xFFFFFFFF#32, 1⟩,
   ⟨.chTake,    0x02000000#32, 0xFF00FFFF#32, 0⟩,
   ⟨.chArm,     0x03000000#32, 0xFF0000CC#32, 5⟩,
   ⟨.chWait,    0x04000000#32, 0xFF00FFFF#32, 0⟩,
   ⟨.mWriteAll, 0x10000000#32, 0xFF000000#32, 2⟩] ++
  [⟨.mReadAll,  0x11000000#32, 0xFF000000#32, 2⟩,
   ⟨.mStart,    0x12000000#32, 0xFFFFFFFF#32, 0⟩,
   ⟨.mWait,     0x13000000#32, 0xFFFFFFFF#32, 0⟩,
   ⟨.sEnable,   0x20000000#32, 0xFFFF0000#32, 0⟩,
   ⟨.sService,  0x21000000#32, 0xFFFFFFFF#32, 0⟩]

/-- Does word 0 select this row (R103)? -/
def OpRow.selects (r : OpRow) (w : Word) : Bool := decide (w &&& r.mask = r.pattern)

/-- The row that word 0 selects, if any (R103). -/
def selectRow (w : Word) : Option OpRow := opRows.find? (fun r => r.selects w)

/-- `OPC`, bits 31:24 of word 0 (R101). -/
def opcField (w : Word) : BitVec 8 := w.extractLsb' 24 8

/-- `CH`, bits 23:16 of word 0 (R101). -/
def chField (w : Word) : ChIdx := w.extractLsb' 16 8

/-- `IMM`, bits 15:0 of word 0 (R101). -/
def immField (w : Word) : BitVec 16 := w.extractLsb' 0 16

/-- `addr16 = zext(IMM[15:0])` (R116). -/
def addr16 (w : Word) : Nat := (immField w).toNat

/-- The Transfer of a CH.ARM packet: WIDTH `IMM[1:0]`, SRCINC `IMM[4]`, DSTINC `IMM[5]`, TRIG `IMM[15:8]` and the five
operand words (R102, R116). -/
def armTransfer (w src srcLen dst dstLen count : Word) : Transfer where
  width  := ((immField w).extractLsb' 0 2).toNat
  srcInc := (immField w).getLsbD 4
  dstInc := (immField w).getLsbD 5
  trig   := ((immField w).extractLsb' 8 8).toNat
  src    := src
  srcLen := srcLen
  dst    := dst
  dstLen := dstLen
  count  := count

/-- The operation of a selected row, from word 0 and the words after it, with the words left over (R102, R117). -/
def decodeRow (op : Opcode) (w : Word) (rest : List Word) : Option (Instr × List Word) :=
  match op, rest with
  | .dmaEnable, base :: r => some (.dmaEnable base, r)
  | .dmaEnable, [] => none
  | .chTake, r => some (.chTake (chField w), r)
  | .chArm, src :: srcLen :: dst :: dstLen :: count :: r =>
      some (.chArm (chField w) (armTransfer w src srcLen dst dstLen count), r)
  | .chArm, _ => none
  | .chWait, r => some (.chWait (chField w), r)
  | .mWriteAll, ptr :: len :: r => some (.mWriteAll (addr16 w) ptr len (chField w), r)
  | .mWriteAll, _ => none
  | .mReadAll, ptr :: len :: r => some (.mReadAll (addr16 w) ptr len (chField w), r)
  | .mReadAll, _ => none
  | .mStart, r => some (.mStart, r)
  | .mWait, r => some (.mWait, r)
  | .sEnable, r => some (.sEnable (addr16 w), r)
  | .sService, r => some (.sService, r)

/-- Read one operation from a run of words: word 0 fixes how many further words belong to it (R117). -/
def decodeStream : List Word → Option (Instr × List Word)
  | [] => none
  | w :: rest =>
    match selectRow w with
    | none => none
    | some row => decodeRow row.op w rest

/-- Decode a packet: none for an unknown `OPC`, a must-be-zero field that is not zero, or a length other than the one R102
gives (R112). -/
def decode (p : Packet) : Option Instr :=
  match decodeStream (p.word0 :: p.operands) with
  | some (i, []) => some i
  | _ => none

/-- The number of operand words R102 gives an `OPC`; 0 for an unknown one (R117). -/
def operandCount (w : Word) : Nat :=
  if opcField w = 0x01#8 then 1
  else if opcField w = 0x03#8 then 5
  else if opcField w = 0x10#8 || opcField w = 0x11#8 then 2
  else 0

/-- The words of the opcode table's numbering: bit 0 is the least significant bit of word 0, later words count on from it,
and bits from `nbits` up are 0. Six words, the longest packet (R100). -/
def tableWord (nbits w k : Nat) : Word := BitVec.ofNat 32 ((w % 2 ^ nbits) >>> (32 * k))

/-- The packet of a table row's bits, as long as its `OPC` makes it (R117). -/
def tablePacket (nbits w : Nat) : Packet where
  word0 := tableWord nbits w 0
  operands :=
    ([tableWord nbits w 1, tableWord nbits w 2, tableWord nbits w 3, tableWord nbits w 4, tableWord nbits w 5]).take
      (operandCount (tableWord nbits w 0))

/-- The operation the decoder reads from a table row's bits. -/
def decodeTableWord (nbits w : Nat) : Option Instr := decode (tablePacket nbits w)

/-! The encoder. -/

/-- Word 0 from its three fields (R101). -/
def commandWord (opc : BitVec 8) (ch : ChIdx) (imm : BitVec 16) : Word := opc ++ ch ++ imm

/-- `IMM` of CH.ARM (R102). -/
def armImm (t : Transfer) : BitVec 16 :=
  BitVec.ofNat 8 t.trig ++ 0#2 ++ BitVec.ofBool t.dstInc ++ BitVec.ofBool t.srcInc ++ 0#2 ++ BitVec.ofNat 2 t.width

/-- The packet of an operation (R101, R102, R103). -/
def encode : Instr → Packet
  | .dmaEnable base => ⟨commandWord 0x01#8 0 0, [base]⟩
  | .chTake c => ⟨commandWord 0x02#8 c 0, []⟩
  | .chArm c t => ⟨commandWord 0x03#8 c (armImm t), [t.src, t.srcLen, t.dst, t.dstLen, t.count]⟩
  | .chWait c => ⟨commandWord 0x04#8 c 0, []⟩
  | .mWriteAll addr ptr len c => ⟨commandWord 0x10#8 c (BitVec.ofNat 16 addr), [ptr, len]⟩
  | .mReadAll addr ptr len c => ⟨commandWord 0x11#8 c (BitVec.ofNat 16 addr), [ptr, len]⟩
  | .mStart => ⟨commandWord 0x12#8 0 0, []⟩
  | .mWait => ⟨commandWord 0x13#8 0 0, []⟩
  | .sEnable addr => ⟨commandWord 0x20#8 0 (BitVec.ofNat 16 addr), []⟩
  | .sService => ⟨commandWord 0x21#8 0 0, []⟩

end Sys2Proof
end

