-- ==== Sys2Proof/Config.lean ====
section
/-! DEFINITION. What an implementation fixes (R7): the constants of this hardware, the record of the OPEN parameters, which
State carries so that every statement about a state is a statement for every value of them, and the one free value. -/

namespace Sys2Proof

/-- `COUNT_MAX`: the largest element count of one transfer (R7). -/
def countMax : Nat := 1024

/-- `DESC_ROW_BYTES`: bytes of one descriptor row (R7, R107). -/
def descRowBytes : Nat := 16

/-- `P_TX_UNDERRUN`: what the bus sees when a byte is requested and none was received (R7, R247). -/
inductive UnderrunPolicy where
  | stall
  | draw
  deriving DecidableEq, Repr

/-- `P_BUS_TIMEOUT`: may the hardware report a bus timeout (R7, R208). -/
inductive TimeoutPolicy where
  | never
  | may
  deriving DecidableEq, Repr

/-- One range of real memory: `size` bytes from `base`. -/
structure MemRange where
  base : Nat
  size : Nat
  deriving DecidableEq, Repr

/-- The OPEN parameters of R7, but for `N_CH`, which is the number of channel register blocks the state holds, and the
environment oracle `ENV`, whose answers come with the turns of the schedule. `MEM_ADMIT` is given by the ranges of real
memory (R72: "it says which ranges are real memory"). DESIGN CHOICE, log entry 2. -/
structure Params where
  descAlign   : Nat
  aMstdat     : Word
  memMap      : List MemRange
  txUnderrun  : UnderrunPolicy
  multiMaster : Bool
  busTimeout  : TimeoutPolicy
  slvFaults   : List EvCode
  deriving DecidableEq, Repr

/-- The suggested or default values of R7; the one range of memory is that of `95_test_vectors.md` section 0, since R7
suggests none. DESIGN CHOICE, log entry 2. -/
def Params.suggested : Params where
  descAlign   := 512
  aMstdat     := 0x40050028#32
  memMap      := [⟨0x10000000, 0x4000⟩]
  txUnderrun  := .stall
  multiMaster := false
  busTimeout  := .never
  slvFaults   := []

/-- The suggested number of channels `N_CH` (R7). -/
def suggestedChannels : Nat := 18

/-- The byte the bus carries when the slave supplies none under `P_TX_UNDERRUN` = DRAW: "draw b in 0..255", "any byte, no
law" (R247); also what a read of the empty data register gives, for which R39 and R78 state no value. A free value: it has no
body, and the state's draw counter makes each draw a fresh one. Log entries 5 and 10. -/
opaque Config.freeByte : Nat → Byte

end Sys2Proof
end

