-- ==== Sys2Proof/Machine/State.lean ====
section
/-! DEFINITION. The state of the engine as plain data (`10_state.md` rules R20 to R36), the reasons a step stops, and the
state after reset (R41, R360). Names, widths and values are those of the tables of `10_state.md`; a field whose codes are a
fixed set of names is an inductive type (D8: "A model may use inductive types instead"). -/

namespace Sys2Proof.Machine

/-! ## Descriptor/Channel Manager (R21, R22) -/

/-- `ch_own[c]` (R22, R23). -/
inductive Own where
  | free | held | xfer
  deriving DecidableEq, Repr

/-- `ch_trig[c]`: TRIG_SW or TRIG_I2C_MST; the reserved codes are unreachable (R22, R113). -/
inductive Trig where
  | sw | i2cMst
  deriving DecidableEq, Repr

/-- `ch_err[c]` (R22). -/
inductive ChErr where
  | none | dmaAbort | periphNack
  deriving DecidableEq, Repr

/-- A memory region an in-flight Transfer owns: start and length in bytes; length 0 means none (R22, `ch_src`, `ch_dst`). -/
structure Region where
  start : Word
  len   : Word
  deriving DecidableEq, Repr

/-- No region. -/
def Region.empty : Region := ⟨0, 0⟩

/-- The registers of one channel (R22). `ch_slot[c]` is hardwired to `c` and needs no storage. -/
structure Chan where
  own     : Own
  enabled : Bool
  trig    : Trig
  active  : Bool
  err     : ChErr
  rem     : Count
  src     : Region
  dst     : Region
  deriving DecidableEq, Repr

/-- A channel after reset (R41, R360). -/
def Chan.reset : Chan := ⟨.free, false, .sw, false, .none, 0, .empty, .empty⟩

/-- The global DCM registers `dma_en`, `desc_base` (R21). -/
structure Dcm where
  en   : Bool
  base : Word
  deriving DecidableEq, Repr

/-- `dma_en` = 0; `desc_base` has no reset value in the spec and is 0 here (DESIGN CHOICE, log entry 1). -/
def Dcm.reset : Dcm := ⟨false, 0⟩

/-! ## Master Engine (R24, R25) -/

/-- `m_phase` (R24). -/
inductive MPhase where
  | idle | pending | start | addr | data | done
  deriving DecidableEq, Repr

/-- A direction, `m_dir` and `bus_rw`: 0 W, 1 R (R24, R33, R110). -/
inductive Dir where
  | w | r
  deriving DecidableEq, Repr

/-- `m_fault` (R24). -/
inductive MFault where
  | none | nackAddr | nackData | arbLost | busTimeout
  deriving DecidableEq, Repr

/-- The master registers (R24) and the master data register (R25). -/
structure Master where
  phase : MPhase
  dir   : Dir
  addr  : BusAddr
  ch    : ChIdx
  ptr   : Word
  len   : Count
  k     : Count
  fault : MFault
  dat   : Byte
  full  : Bool
  deriving DecidableEq, Repr

/-- The master after reset (R360); `m_dat` has no reset value in the spec and is 0 here (DESIGN CHOICE, log entry 1). -/
def Master.reset : Master := ⟨.idle, .w, 0, 0, 0, 0, 0, .none, 0, false⟩

/-! ## Slave Protocol State Machine (R26 to R32) -/

/-- `s_state`: the four session states and the Fault pseudo-state (R27). -/
inductive SState where
  | idle | addressMatched | receivingByte | transmittingByte | fault
  deriving DecidableEq, Repr

/-- `s_sel` (R31). -/
inductive Sel where
  | nsel | selW | selR
  deriving DecidableEq, Repr

/-- The slave registers S0 to S10 (R26 to R32); `s_irq` is combinational and needs no storage. -/
structure Slave where
  en        : Bool
  addr      : BusAddr
  state     : SState
  last      : Byte
  lastValid : Bool
  pend      : EvCode
  rxdat     : Byte
  txdat     : Byte
  sel       : Sel
  fatal     : Bool
  faultCode : EvCode
  deriving DecidableEq, Repr

/-- The slave after reset (R360); `s_addr`, `s_last`, `s_rxdat`, `s_txdat` have no reset value in the spec and are 0 here
(DESIGN CHOICE, log entry 1). -/
def Slave.reset : Slave := ⟨false, 0, .idle, 0, false, 0, 0, 0, .nsel, false, 0⟩

/-! ## Bus (R33) -/

/-- `bus_phase` (R33, R281). -/
inductive BusPhase where
  | idle | addr | wIdle | wAckwait | rDatawait | rAckwait | ended | hung
  deriving DecidableEq, Repr

/-- `bus_init`: OWN or EXT (R33). -/
inductive Initiator where
  | own | ext
  deriving DecidableEq, Repr

/-- `bus_tgt` (R33). -/
inductive Target where
  | none | ownSlv | extSlv
  deriving DecidableEq, Repr

/-- The bus state (R33). -/
structure Bus where
  phase : BusPhase
  init  : Initiator
  tgt   : Target
  rw    : Dir
  byte  : Byte
  deriving DecidableEq, Repr

/-- The bus after reset (R360); `bus_byte` has no reset value in the spec and is 0 here (DESIGN CHOICE, log entry 1). -/
def Bus.reset : Bus := ⟨.idle, .own, .none, .w, 0⟩

/-! ## Inputs, memory, hazards, trace (R34, R35, R36, R72) -/

/-- The three input bits of the clock and pin providers (R34). -/
structure Inputs where
  clkDma : Bool
  clkI2c : Bool
  pinsOk : Bool
  deriving DecidableEq, Repr

/-- System memory as a list of (address, byte) in one canonical form: addresses strictly rising and below 2^32, and no entry
equal to what an unlisted address reads as (R70, R72). -/
abbrev Memory := List Host.Cell

/-- The hazard record `haz`, a set with two possible members (R35). -/
structure Haz where
  descWrite   : Bool
  bufferAlias : Bool
  deriving DecidableEq, Repr

/-- The two host contexts (R20, R338). -/
inductive Ctx where
  | fg | int
  deriving DecidableEq, Repr

/-- Who put a symbol on the bus (R36). -/
inductive Driver where
  | ownMaster | ownSlave | extMaster | extSlave | nobody
  deriving DecidableEq, Repr

/-- The bus symbols (R36, R111). -/
inductive Sym where
  | start
  | addr (a7 : BusAddr) (rw : Dir)
  | ack
  | nack
  | data (b : Byte)
  | stop
  deriving DecidableEq, Repr

/-- What a FAULT record names: a bus timeout (R208) or a code reported to the slave (R256). -/
inductive FaultTag where
  | busTimeout
  | slave (code : EvCode)
  deriving DecidableEq, Repr

/-- The command of an OP record: an operation with its operands, or a packet the decoder rejects (R36, R112). -/
inductive Command where
  | op (i : Instr)
  | illegal (p : Packet)
  deriving DecidableEq, Repr

/-- The records of `trace` (R36). -/
inductive Rec where
  | op (ctx : Ctx) (cmd : Command) (response : Word)
  | sym (s : Sym) (d : Driver)
  | dma (c : ChIdx) (src dst : Word) (w : Nat) (v : Word)
  | fault (tag : FaultTag)
  deriving DecidableEq, Repr

/-! ## The host contexts and the schedule -/

/-- A blocking operation that has passed its checks and holds, with the channel its rule has read (R146, R204:
"`c <- m_ch`" stands before the hold). -/
inductive Hold where
  | chWait (c : ChIdx)
  | mWait (c : ChIdx)
  deriving DecidableEq, Repr

/-- One host context: the packets it has still to issue, in program order, and the operation it is blocked in (R20: "at most
one FG operation and at most one INT operation exist at a time"). -/
structure HostCtx where
  prog : List Packet
  hold : Option Hold
  deriving DecidableEq, Repr

/-- The environment's answer to `Arbitrate` (R207). -/
inductive Arb where
  | win
  | lose (b : Byte)
  deriving DecidableEq, Repr

/-- The steps of the master framing unit (R197 to R203), with what the environment draws in them: the arbitration and
whether an external slave is present at the address driven (R207, R283). -/
inductive MfuStep where
  | start (arb : Arb) (present : Bool)
  | wdrive (arb : Arb)
  | wdone
  | rrespond
  | nack
  | dabort
  deriving DecidableEq, Repr

/-- The steps of the environment (R208, R256, R289 to R295), with what they draw. -/
inductive EnvStep where
  | xsAddr (ack : Bool)
  | xsWdata (ack : Bool)
  | xsRdata (b : Byte)
  | xmStart (a7 : BusAddr) (rw : Dir) (present : Bool)
  | xmWdata (b : Byte)
  | xmRresp (ack : Bool)
  | xmStop
  | xmRestart (a7 : BusAddr) (rw : Dir) (present : Bool)
  | timeout
  | slvFault (code : EvCode)
  deriving DecidableEq, Repr

/-- The width of a host processor access to memory. -/
inductive AccWidth where
  | one | two | four
  deriving DecidableEq, Repr

/-- Moves of the parties outside the engine that are not on the bus: the clock and pin providers (R34, R364, R365), the host
processor's own loads and stores (R70, R366, R367), and the host's program going on with one more packet in a context, so that
a run may issue operations without end (R40, R377; log entry 3). -/
inductive OutsideStep where
  | clkDma (on : Bool)
  | clkI2c (on : Bool)
  | pins (ok : Bool)
  | load (a : Word) (w : AccWidth)
  | store (a : Word) (w : AccWidth) (v : Word)
  | append (c : Ctx) (p : Packet)
  deriving DecidableEq, Repr

/-- Whose turn it is to take a step (R20). A turn whose step is not enabled passes with nothing done. -/
inductive Turn where
  | host (ctx : Ctx)
  | seq (c : ChIdx)
  | mfu (m : MfuStep)
  | bus
  | env (e : EnvStep)
  | reset
  | outside (o : OutsideStep)
  deriving DecidableEq, Repr

/-! ## The whole state -/

/-- The state. `par`, `cur`, `sched`, `draws`, `fg` and `int` are the model's own fields (log entries 2, 3, 5): the OPEN
parameters, the context whose operation the engine is executing, the order in which the parties move, the counter of free
draws, and what the two host contexts have still to issue. The number of channel register blocks is `N_CH`. -/
structure State where
  par   : Params
  dcm   : Dcm
  chans : List Chan
  me    : Master
  sl    : Slave
  bus   : Bus
  inp   : Inputs
  mem   : Memory
  haz   : Haz
  trace : List Rec
  fg    : HostCtx
  int   : HostCtx
  cur   : Ctx
  sched : List Turn
  draws : Nat
  deriving DecidableEq, Repr

/-- The state right after reset (R41, R360), with the suggested parameters, nothing listed in memory, no hazard, an empty
trace (R35, R36), the three inputs at the launch premise's value 1 (R34, R363; log entry 4), no packet to issue and no turn
scheduled (log entry 3). -/
def State.reset : State where
  par   := Params.suggested
  dcm   := Dcm.reset
  chans := List.replicate suggestedChannels Chan.reset
  me    := Master.reset
  sl    := Slave.reset
  bus   := Bus.reset
  inp   := ⟨true, true, true⟩
  mem   := []
  haz   := ⟨false, false⟩
  trace := []
  fg    := ⟨[], none⟩
  int   := ⟨[], none⟩
  cur   := .fg
  sched := []
  draws := 0

/-! ## Why a step stops -/

/-- The faults of the model. None of them is a behaviour of the engine: in a run that starts from reset none is raised by an
agent of the engine. -/
inductive Fault where
  /-- Raised by the descriptor builder when `MEM_ADMIT` refuses a word of the row (R72 `require`; R73: "The builder
  therefore never meets a refused access"). Safe: only in states no run reaches. -/
  | rowNotAdmitted
  /-- Raised by a load or store of the host processor at an address `MEM_ADMIT` says is no memory (R72, R77). Safe: the
  model stops where the platform may go on. -/
  | hostNotAdmitted
  deriving DecidableEq, Repr

/-- The refusals of the model. -/
inductive Refusal where
  /-- An instruction with no meaning yet, by its mnemonic. Raised by `exec` only. Safe. -/
  | notModelled (mnemonic : String)
  /-- REFUSE_CLOCK_OFF (R140, R340): a host operation whose needed input `clk_dma`, `clk_i2c` or `pins_ok` is 0. "undefined
  hardware behavior, not a recoverable error". Raised by every host operation. Safe. -/
  | clockOff
  /-- A load or store of the host processor that touches the master data port: "A host access to `A_MSTDAT` is outside this
  spec" (R78). Raised by the host processor's turn. Safe. -/
  | hostPortAccess
  deriving DecidableEq, Repr

/-- The outcome of a step of this machine. -/
abbrev Result := Host.Outcome State Fault Refusal

end Sys2Proof.Machine
end

