-- ==== Sys2Proof/Machine/Operands.lean ====
section
/-! DEFINITION. The operand forms and their checks: element width, spans, `ValidTransfer` (R143), the master's checks (R191)
and Transfer (R193), and the layout of a descriptor row (R107 to R109, R149), each kept in one place
(R107: "A model must treat the layout as a configuration it can change in one place"). -/

namespace Sys2Proof.Machine

/-- `w = 1 << WIDTH`, the element width in bytes (R108, R143). -/
def elemBytes (width : Nat) : Nat := 2 ^ width

/-- `span_s = count * w` if SRCINC = 1, else `w`; computed without truncation (R143 item 5, R119). -/
def srcSpan (t : Transfer) : Nat :=
  if t.srcInc then t.count.toNat * elemBytes t.width else elemBytes t.width

/-- `span_d`, likewise for the destination (R143 item 5). -/
def dstSpan (t : Transfer) : Nat :=
  if t.dstInc then t.count.toNat * elemBytes t.width else elemBytes t.width

/-- Does `[start, start + n)` contain address `a`? -/
def spanContains (start : Word) (n : Nat) (a : Word) : Bool :=
  decide (start.toNat ≤ a.toNat) && decide (a.toNat < start.toNat + n)

/-- `ValidTransfer` (R143), items 1 to 7 in order. -/
def validTransfer (p : Params) (t : Transfer) (allowPort : Bool) : Bool :=
  decide (t.width < 3) &&
  (decide (1 ≤ t.count.toNat) && decide (t.count.toNat ≤ countMax)) &&
  (allowPort || decide (t.trig = 0)) &&
  (decide (t.src.toNat % elemBytes t.width = 0) && decide (t.dst.toNat % elemBytes t.width = 0)) &&
  (decide (srcSpan t ≤ t.srcLen.toNat) && decide (dstSpan t ≤ t.dstLen.toNat)) &&
  (decide (t.src.toNat + srcSpan t ≤ 2 ^ 32) && decide (t.dst.toNat + dstSpan t ≤ 2 ^ 32)) &&
  (allowPort || (!spanContains t.src (srcSpan t) p.aMstdat && !spanContains t.dst (dstSpan t) p.aMstdat))

/-- The last check of M.WRITE_ALL and M.READ_ALL: a buffer longer than `COUNT_MAX`, wrapping the address space, or covering
the data port (R191); `ptr + len` is an unbounded integer (R119). -/
def badMasterBuffer (p : Params) (ptr len : Word) : Bool :=
  decide (len.toNat > countMax) || decide (ptr.toNat + len.toNat > 2 ^ 32) || spanContains ptr len.toNat p.aMstdat

/-- The master Transfer (R193): one endpoint is the port and does not increment, the other is the caller's buffer and
increments; 8-bit elements, `m_len` of them, trigger TRIG_I2C_MST. -/
def masterTransfer (p : Params) (m : Master) : Transfer :=
  match m.dir with
  | .w => ⟨0, true, false, 1, m.ptr, m.len.setWidth 32, p.aMstdat, 1, m.len.setWidth 32⟩
  | .r => ⟨0, false, true, 1, p.aMstdat, 1, m.ptr, m.len.setWidth 32, m.len.setWidth 32⟩

/-- The trigger a CH.ARM packet's TRIG code names: only TRIG_SW passes `ValidTransfer` (R143 item 3, D18). -/
def trigOfCode (code : Nat) : Trig := if code = 0 then .sw else .i2cMst

/-! ## The descriptor row -/

/-- A fetched descriptor row (R107). -/
structure Row where
  cfg    : Word
  srcEnd : Word
  dstEnd : Word
  next   : Word
  deriving DecidableEq, Repr

/-- Byte offsets of the four words of a row (R107). -/
def offCfg : Nat := 0
def offSrcEnd : Nat := 4
def offDstEnd : Nat := 8
def offNext : Nat := 12

/-- An increment flag as a factor (R109). -/
def incWord (inc : Bool) : Word := if inc then 1 else 0

/-- `CFG = 1 OR (WIDTH << 8) OR (SRCINC << 12) OR (DSTINC << 14) OR ((count - 1) << 16)` (R108). -/
def cfgWord (t : Transfer) : Word :=
  1#32 ||| (BitVec.ofNat 32 t.width <<< 8) ||| (incWord t.srcInc <<< 12) ||| (incWord t.dstInc <<< 14) |||
    ((t.count - 1#32) <<< 16)

/-- `END = (start + (count - 1) * w * INC) mod 2^32`, the address of the last element (R109). -/
def endAddr (start count : Word) (width : Nat) (inc : Bool) : Word :=
  start + (count - 1#32) * BitVec.ofNat 32 (elemBytes width) * incWord inc

/-- The row the builder writes for a Transfer; NEXT is always 0 (R107, R144, R153). -/
def rowOf (t : Transfer) : Row where
  cfg    := cfgWord t
  srcEnd := endAddr t.src t.count t.width t.srcInc
  dstEnd := endAddr t.dst t.count t.width t.dstInc
  next   := 0

/-- `cfg[9:8]`, the WIDTH code of a fetched row (R108). -/
def cfgWidth (cfg : Word) : Nat := (cfg.extractLsb' 8 2).toNat

/-- `cfg[12]`, SRCINC (R108). -/
def cfgSrcInc (cfg : Word) : Bool := cfg.getLsbD 12

/-- `cfg[14]`, DSTINC (R108). -/
def cfgDstInc (cfg : Word) : Bool := cfg.getLsbD 14

/-- `cfg[25:16] + 1`, the element count of a fetched row (R108, R148). -/
def cfgCount (cfg : Word) : Nat := (cfg.extractLsb' 16 10).toNat + 1

/-- `WellFormed(cfg, nx)` (R149): VALID set, WIDTH not 3, every bit R108 shows as 0 is 0, NEXT is 0. -/
def rowWellFormed (row : Row) : Bool :=
  decide (row.cfg.extractLsb' 0 1 = 1#1) && decide (row.cfg.extractLsb' 8 2 ≠ 3#2) &&
  decide (row.cfg.extractLsb' 1 7 = 0#7) && decide (row.cfg.extractLsb' 10 2 = 0#2) &&
  decide (row.cfg.extractLsb' 13 1 = 0#1) && decide (row.cfg.extractLsb' 15 1 = 0#1) &&
  decide (row.cfg.extractLsb' 26 6 = 0#6) && decide (row.next = 0#32)

/-- `ElemAddr(r) = (END - (r - 1) * w * INC) mod 2^32`, the address of the element with `r` remaining (R109). -/
def elemAddr (endA : Word) (r : Count) (width : Nat) (inc : Bool) : Word :=
  endA - (r.setWidth 32 - 1#32) * BitVec.ofNat 32 (elemBytes width) * incWord inc

/-! ## The bus address byte and the slave's transform -/

/-- A direction as the R/W bit: 0 write, 1 read (R110). -/
def Dir.bit : Dir → BitVec 1
  | .w => 0#1
  | .r => 1#1

/-- The direction an R/W bit announces (R110). -/
def dirOfBit (b : Bool) : Dir := if b then .r else .w

/-- `AB = (addr << 1) OR rw` (R110). -/
def addressByte (a : BusAddr) (rw : Dir) : Byte := a ++ rw.bit

/-- `a7 = AB[7:1]` (R110). -/
def addressOf (ab : Byte) : BusAddr := ab.extractLsb' 1 7

/-- `rw = AB[0]` (R110). -/
def directionOf (ab : Byte) : Dir := dirOfBit (ab.getLsbD 0)

/-- The transmit transform `TXF(v) = (v << 1) mod 256` (R7, R248). -/
def txf (v : Byte) : Byte := v <<< 1

/-- `Arbitrate(b)` (R207): WIN when `P_MULTIMASTER` is false; when it is true, what the environment draws, a LOSE being a
draw only when its byte differs. -/
def arbitrate (p : Params) (b : Byte) : Arb → Arb
  | .win => .win
  | .lose b' => if p.multiMaster && decide (b' ≠ b) then .lose b' else .win

/-- The bytes a host access of this width touches. -/
def AccWidth.bytes : AccWidth → Nat
  | .one => 1
  | .two => 2
  | .four => 4

end Sys2Proof.Machine
end

