-- ==== Sys2Proof/Machine/Flags.lean ====
section
/-! DEFINITION. Every flag and status computation: status codes and the response word (R104, R105), event codes (R106), the
interrupt output (R32, R330), the DMA request (R147, R196), the enabling condition of the element step (R148), the release
conditions of the two holds (R146, R204), and the inputs an operation needs (R140). -/

namespace Sys2Proof.Machine

/-- The status codes (R105). -/
inductive Status where
  | ok | wouldBlock
  | cfgInvalidAddress | cfgDegenerateTransfer | cfgAlreadyEnabled | cfgBadChannel | cfgBadBase
  | busNackAddress | busNackData | busArbLost | busTimeout
  | dmaAbort | dmaPeriphNack
  | chAlreadyTaken
  | lifecycle | illegalCommand
  | fatal
  deriving DecidableEq, Repr

/-- The numbers of the status codes (R105). -/
def Status.code : Status → BitVec 8
  | .ok => 0x00#8
  | .wouldBlock => 0x01#8
  | .cfgInvalidAddress => 0x10#8
  | .cfgDegenerateTransfer => 0x11#8
  | .cfgAlreadyEnabled => 0x12#8
  | .cfgBadChannel => 0x13#8
  | .cfgBadBase => 0x14#8
  | .busNackAddress => 0x20#8
  | .busNackData => 0x21#8
  | .busArbLost => 0x22#8
  | .busTimeout => 0x23#8
  | .dmaAbort => 0x30#8
  | .dmaPeriphNack => 0x31#8
  | .chAlreadyTaken => 0x40#8
  | .lifecycle => 0x50#8
  | .illegalCommand => 0x51#8
  | .fatal => 0xF0#8

/-- The response word: bits 31:24 zero, `CH` 23:16, `INFO` 15:8, `STATUS` 7:0 (R104). -/
def responseWord (st : Status) (info : BitVec 8) (c : ChIdx) : Word := 0#8 ++ c ++ info ++ st.code

/-- `INFO` of S.SERVICE: the event code read in bits 3:0, UNDERRUN in bit 4, `s_state` after the step in bits 7:5 (R104). -/
def serviceInfo (ev : EvCode) (underrun : Bool) (st : BitVec 3) : BitVec 8 := st ++ BitVec.ofBool underrun ++ ev

/-- The code of `s_state` (R27). -/
def SState.code : SState → BitVec 3
  | .idle => 0#3
  | .addressMatched => 1#3
  | .receivingByte => 2#3
  | .transmittingByte => 3#3
  | .fault => 7#3

/-! Event codes (R106). -/
def evNone : EvCode := 0#4
def evAddrMatch : EvCode := 1#4
def evRxReady : EvCode := 2#4
def evTxReady : EvCode := 3#4
def evBusError : EvCode := 8#4
def evArbLoss : EvCode := 9#4

/-- A code of 4 or more is a fault code (R29). -/
def isFaultCode (ev : EvCode) : Bool := decide (4 ≤ ev.toNat)

/-- `s_irq = s_en AND (s_pend != 0) AND (s_fatal = 0)` (R32, R330). -/
def State.sIrq (s : State) : Bool := s.sl.en && decide (s.sl.pend ≠ evNone) && !s.sl.fatal

/-- The registers of channel `c`; a channel that does not exist reads as one after reset, and nothing reads it. -/
def State.ch (s : State) (c : ChIdx) : Chan := s.chans.getD c.toNat Chan.reset

/-- `N_CH` (R7). -/
def State.nCh (s : State) : Nat := s.chans.length

/-- Is `c` in 0..N_CH-1 (R22)? -/
def State.chExists (s : State) (c : ChIdx) : Bool := decide (c.toNat < s.nCh)

/-- The context of one of the two host contexts. -/
def State.ctx (s : State) : Ctx → HostCtx
  | .fg => s.fg
  | .int => s.int

/-- `m_dreq`, the request of the master data register (R196). -/
def State.mDreq (s : State) : Bool :=
  decide (s.me.phase = .data) && decide (s.bus.init = .own) &&
  ((decide (s.me.dir = .w) && decide (s.bus.phase = .wIdle) && !s.me.full) ||
   (decide (s.me.dir = .r) && decide (s.bus.phase = .rAckwait) && s.me.full))

/-- `Request(c)` (R147). -/
def State.request (s : State) (c : ChIdx) : Bool :=
  decide ((s.ch c).trig = .sw) || (decide ((s.ch c).trig = .i2cMst) && decide (c = s.me.ch) && s.mDreq)

/-- Is the element step of SEQ[c] enabled (R148)? -/
def State.seqEnabled (s : State) (c : ChIdx) : Bool :=
  s.dcm.en && s.inp.clkDma && (s.ch c).enabled && (s.ch c).active && decide ((s.ch c).err = .none) && s.request c

/-- The condition that lifts a hold: `ch_active[c] = 0 or ch_err[c] != NONE` (R146);
`m_phase = M_DONE and ch_active[c] = 0` (R204). -/
def State.holdLifted (s : State) : Hold → Bool
  | .chWait c => !(s.ch c).active || decide ((s.ch c).err ≠ .none)
  | .mWait c => decide (s.me.phase = .done) && !(s.ch c).active

/-- The result of CH.WAIT after its hold: the error flag is looked at first (R146). -/
def chWaitStatus : ChErr → Status
  | .dmaAbort => .dmaAbort
  | .periphNack => .dmaPeriphNack
  | .none => .ok

/-- The result of M.WAIT after its hold: a bus fault first, then a DMA abort (R204, R205). -/
def mWaitStatus (f : MFault) (e : ChErr) : Status :=
  match f, e with
  | .nackAddr, _ => .busNackAddress
  | .nackData, _ => .busNackData
  | .arbLost, _ => .busArbLost
  | .busTimeout, _ => .busTimeout
  | .none, .dmaAbort => .dmaAbort
  | .none, .none => .ok
  | .none, .periphNack => .ok

/-- The inputs a host operation needs at 1 (R140, check 2). -/
def needsMet (n : Inputs) : Instr → Bool
  | .dmaEnable _ => n.clkDma
  | .chTake _ => n.clkDma
  | .chArm _ _ => n.clkDma
  | .chWait _ => n.clkDma
  | .mWriteAll _ _ _ _ => n.clkI2c && n.clkDma
  | .mReadAll _ _ _ _ => n.clkI2c && n.clkDma
  | .mStart => n.clkI2c && n.clkDma && n.pinsOk
  | .mWait => n.clkI2c && n.clkDma
  | .sEnable _ => n.clkI2c && n.pinsOk
  | .sService => n.clkI2c

end Sys2Proof.Machine
end

