-- ==== Sys2Proof/Machine/Ops.lean ====
section
/-! DEFINITION. The named operations over memory, registers and the bus, shared by the host operations and by the agents:
memory (R72), the port (R78), the descriptor builder (R144), the hazard record (R366, R367), the bus procedures of
`43_bus_and_environment.md` section 2, and the answer of an operation (R104, R320). The engine has no traps and no exception
vectors (`60_exceptions.md`): what it does instead of taking an exception is to answer an operation with a status, and
`answer` is the one place that does so. -/

namespace Sys2Proof.Machine

/-! ## Memory (R70 to R75) -/

/-- What an unlisted address reads as: memory has no reset contents in the spec (R41, R77), 0 is chosen.
DESIGN CHOICE, log entry 6. -/
def Memory.blank : Byte := 0

/-- The canonical form: addresses strictly rising and inside the 32-bit space, no entry equal to the blank byte. -/
abbrev Memory.wf (m : Memory) : Prop :=
  m.Pairwise (fun x y => x.1 < y.1) ∧ ∀ x ∈ m, x.2 ≠ Memory.blank ∧ x.1 < 2 ^ 32

/-- Read one byte (R72). -/
def Memory.read : Memory → Nat → Byte
  | [], _ => Memory.blank
  | x :: rest, a => if x.1 = a then x.2 else Memory.read rest a

/-- Write one byte, keeping the canonical form (R72). -/
def Memory.write : Memory → Nat → Byte → Memory
  | [], a, b => if b = Memory.blank then [] else [(a, b)]
  | x :: rest, a, b =>
    if a < x.1 then (if b = Memory.blank then x :: rest else (a, b) :: x :: rest)
    else if a = x.1 then (if b = Memory.blank then rest else (a, b) :: rest)
    else x :: Memory.write rest a b

/-- `sum over i in 0..n-1 of mem[addr + i] * 256^i` (R71, R72). -/
def Memory.readLE (m : Memory) (a : Nat) : Nat → Nat
  | 0 => 0
  | n + 1 => (m.read a).toNat + 256 * Memory.readLE m (a + 1) n

/-- `for i in 0..n-1: mem[addr + i] <- (v / 256^i) mod 256` (R71, R72). -/
def Memory.writeLE (m : Memory) (a : Nat) : Nat → Nat → Memory
  | 0, _ => m
  | n + 1, v => Memory.writeLE (m.write a (BitVec.ofNat 8 v)) (a + 1) n (v / 256)

/-- `MEM_ADMIT(a, n)`: the access lies in one range of real memory and inside the 32-bit address space (R7, R72). -/
def memAdmit (p : Params) (a n : Nat) : Bool :=
  decide (a + n ≤ 2 ^ 32) && p.memMap.any (fun r => decide (r.base ≤ a) && decide (a + n ≤ r.base + r.size))

/-- Read one byte of the state's memory. -/
def State.byteAt (s : State) (a : Nat) : Byte := s.mem.read a

/-- `MemRead(addr, n)` where `MEM_ADMIT` holds (R72). -/
def State.memRead (s : State) (a n : Nat) : Word := BitVec.ofNat 32 (s.mem.readLE a n)

/-! ## Setting one part of the state -/

def State.setDcm (s : State) (d : Dcm) : State := { s with dcm := d }
def State.setMe (s : State) (m : Master) : State := { s with me := m }
def State.setSl (s : State) (x : Slave) : State := { s with sl := x }
def State.setBus (s : State) (b : Bus) : State := { s with bus := b }
def State.setInp (s : State) (n : Inputs) : State := { s with inp := n }
def State.setMem (s : State) (m : Memory) : State := { s with mem := m }
def State.setHaz (s : State) (h : Haz) : State := { s with haz := h }
def State.setChans (s : State) (l : List Chan) : State := { s with chans := l }
def State.setCur (s : State) (c : Ctx) : State := { s with cur := c }
def State.setSched (s : State) (l : List Turn) : State := { s with sched := l }
def State.nextDraw (s : State) : State := { s with draws := s.draws + 1 }

/-- Write the registers of channel `c`. -/
def State.setCh (s : State) (c : ChIdx) (x : Chan) : State := s.setChans (s.chans.set c.toNat x)

/-- `record e` (R10, R36). -/
def State.record (s : State) (e : Rec) : State := { s with trace := s.trace ++ [e] }

/-- Set one host context. -/
def State.setCtx (s : State) (c : Ctx) (h : HostCtx) : State :=
  match c with
  | .fg => { s with fg := h }
  | .int => { s with int := h }

/-- Set or clear what a host context is blocked in. -/
def State.setHold (s : State) (c : Ctx) (h : Option Hold) : State := s.setCtx c { s.ctx c with hold := h }

/-- One more packet for a context to issue, after those it has (log entry 3). -/
def State.appendPacket (s : State) (c : Ctx) (p : Packet) : State := s.setCtx c { s.ctx c with prog := (s.ctx c).prog ++ [p] }

/-- `MemWrite(addr, n, v)` where `MEM_ADMIT` holds (R72). -/
def State.memWrite (s : State) (a n : Nat) (v : Word) : State := s.setMem (s.mem.writeLE a n v.toNat)

/-! ## Answering an operation (R100, R104, R320) -/

/-- `return ST_x(info)`: the operation ends, its response word carries the status, and its OP record is appended (R10, R36).
Errors redirect no control and save no state (R320, R329). -/
def answer (i : Instr) (st : Status) (info : BitVec 8) (c : ChIdx) (s : State) : Result :=
  .next (s.record (.op s.cur (.op i) (responseWord st info c)))

/-- The answer of an operation whose response copies the command's `CH` field and has `INFO` 0 (R104). -/
def finish (i : Instr) (st : Status) (s : State) : Result := answer i st 0 i.chField s

/-- The answer to a packet the decoder rejects: ST_ILLEGAL_COMMAND with `CH` copied; no state changes (R112). -/
def answerIllegal (p : Packet) (s : State) : Result :=
  .next (s.record (.op s.cur (.illegal p) (responseWord .illegalCommand 0 (p.word0.extractLsb' 16 8))))

/-- The clock and pin check that stands before every operation's own rule (R140, check 2; R340). -/
def withInputs (i : Instr) (s : State) (k : Result) : Result :=
  if needsMet s.inp i then k else .refused .clockOff

/-! ## The descriptor table (R76, R107, R144) -/

/-- `ch_slot[c]`, hardwired to `c` (R22). -/
def chSlot (c : ChIdx) : Nat := c.toNat

/-- The address of the row of channel `c`: `desc_base + 16 * c` (R76, R107). -/
def State.rowAddr (s : State) (c : ChIdx) : Nat := s.dcm.base.toNat + descRowBytes * chSlot c

/-- Bytes of the descriptor table, `16 * N_CH` (R76). -/
def State.tableBytes (s : State) : Nat := descRowBytes * s.nCh

/-- Does memory admit the four words of the row at `a`? -/
def rowAdmitted (p : Params) (a : Nat) : Bool :=
  memAdmit p (a + offCfg) 4 && memAdmit p (a + offSrcEnd) 4 && memAdmit p (a + offDstEnd) 4 && memAdmit p (a + offNext) 4

/-- Write the four words of a row at `a` (R144). -/
def State.writeRow (s : State) (a : Nat) (r : Row) : State :=
  (((s.memWrite (a + offCfg) 4 r.cfg).memWrite (a + offSrcEnd) 4 r.srcEnd).memWrite (a + offDstEnd) 4 r.dstEnd).memWrite
    (a + offNext) 4 r.next

/-- Read the four words of the row at `a` (R148). -/
def State.readRow (s : State) (a : Nat) : Row where
  cfg    := s.memRead (a + offCfg) 4
  srcEnd := s.memRead (a + offSrcEnd) 4
  dstEnd := s.memRead (a + offDstEnd) 4
  next   := s.memRead (a + offNext) 4

/-- `BuildDescriptor` (R144): write the row of channel `c` for a Transfer; none when memory admits no such row, which the
spec says never happens (R73). -/
def buildDescriptor (c : ChIdx) (t : Transfer) (s : State) : Option State :=
  if rowAdmitted s.par (s.rowAddr c) then some (s.writeRow (s.rowAddr c) (rowOf t)) else none

/-! ## Hazards (R35, R366, R367) -/

/-- Do `[a, a + n)` and the region share a byte? A region of length 0 means none (R22). -/
def overlaps (a n : Nat) (r : Region) : Bool :=
  decide (r.len ≠ 0) && decide (a < r.start.toNat + r.len.toNat) && decide (r.start.toNat < a + n)

/-- Does a write of `[a, a + n)` by an agent other than the builder touch the descriptor table between DMA.ENABLE and reset
(R366)? -/
def State.hitsTable (s : State) (a n : Nat) : Bool :=
  s.dcm.en && decide (a < s.dcm.base.toNat + s.tableBytes) && decide (s.dcm.base.toNat < a + n)

/-- Does a host access to `[a, a + n)` touch a region a Transfer in flight owns (R367)? -/
def State.hostAliases (s : State) (a n : Nat) : Bool :=
  s.chans.any (fun x => decide (x.own = .xfer) && (overlaps a n x.src || overlaps a n x.dst))

/-- Does a read of `[a, a + n)` by channel `c` touch another channel's destination in flight? A shared source is allowed
(R367). -/
def State.readAliases (s : State) (c : ChIdx) (a n : Nat) : Bool :=
  s.chans.zipIdx.any (fun y => decide (y.2 ≠ c.toNat) && decide (y.1.own = .xfer) && overlaps a n y.1.dst)

/-- Does a write of `[a, a + n)` by channel `c` touch another channel's source or destination in flight (R367)? -/
def State.writeAliases (s : State) (c : ChIdx) (a n : Nat) : Bool :=
  s.chans.zipIdx.any (fun y =>
    decide (y.2 ≠ c.toNat) && decide (y.1.own = .xfer) && (overlaps a n y.1.src || overlaps a n y.1.dst))

/-- When channel `c` is armed with destination `r`: is another armed channel's destination in part the same memory? "two armed
channels with overlapping destinations" (R367); armed is an active flag of 1 (R12; log entry 9). -/
def State.armAliases (s : State) (c : ChIdx) (r : Region) : Bool :=
  decide (r.len ≠ 0) &&
  s.chans.zipIdx.any (fun y => decide (y.2 ≠ c.toNat) && y.1.active && overlaps r.start.toNat r.len.toNat y.1.dst)

/-- Add members to `haz`; nothing is ever removed (R35). -/
def State.noteHaz (s : State) (descWrite bufferAlias : Bool) : State :=
  s.setHaz ⟨s.haz.descWrite || descWrite, s.haz.bufferAlias || bufferAlias⟩

/-- The hazard of arming channel `c`, whose registers are written (R367). -/
def noteArm (c : ChIdx) (s : State) : State := s.noteHaz false (s.armAliases c (s.ch c).dst)

/-! ## Channels (R150, R157) and the master data port (R78) -/

/-- `Abort(c)`: the DMA abort (R150). -/
def abort (c : ChIdx) (s : State) : State := s.setCh c { s.ch c with err := .dmaAbort, active := false }

/-- `StopChannel(c)` (R157). -/
def stopChannel (c : ChIdx) (s : State) : State := s.setCh c { s.ch c with active := false }

/-- The byte `PortRead` finds: `m_dat` while it is full; a read outside that guard has no stated value (R39, R78) and gives a
free one (DESIGN CHOICE, log entry 10). -/
def portByte (s : State) : Byte := if s.me.full then s.me.dat else Config.freeByte s.draws

/-- `PortRead()` (R78): the byte, the register emptied, the count. A read of the empty register uses up a draw. -/
def portRead (s : State) : Word × State :=
  ((portByte s).setWidth 32, (if s.me.full then s else s.nextDraw).setMe { s.me with full := false, k := s.me.k + 1 })

/-- `PortWrite(v)` (R78). On a register that is full the byte is replaced (DESIGN CHOICE, log entry 10). -/
def portWrite (v : Word) (s : State) : State := s.setMe { s.me with dat := v.setWidth 8, full := true }

/-! ## Bus procedures (R282 to R287, R297, R298) -/

/-- `drv(init)` (R282 preamble). -/
def drv : Initiator → Driver
  | .own => .ownMaster
  | .ext => .extMaster

/-- `SlaveLatch(ev)` (R282). -/
def slaveLatch (ev : EvCode) (s : State) : State :=
  if !s.sl.fatal && !isFaultCode s.sl.pend then s.setSl { s.sl with pend := ev } else s

/-- `DriveAddress(init, ab)` (R283); `present` is the environment's `ENV.present(a7)`. -/
def driveAddress (init : Initiator) (ab : Byte) (present : Bool) (s : State) : State :=
  let a7 := addressOf ab
  let rw := directionOf ab
  let s1 := (s.record (.sym .start (drv init))).record (.sym (.addr a7 rw) (drv init))
  if s.sl.en && decide (a7 = s.sl.addr) then
    slaveLatch evAddrMatch
      ((s1.setBus ⟨.addr, init, .ownSlv, rw, ab⟩).setSl
        { s.sl with sel := (match rw with | .w => .selW | .r => .selR) })
  else
    (s1.setBus ⟨.addr, init, if present then .extSlv else .none, rw, ab⟩).setSl { s.sl with sel := .nsel }

/-- `AfterAddrAck()` (R284). -/
def afterAddrAck (s : State) : State :=
  if s.bus.phase ≠ .addr then s
  else
    let s1 := match s.bus.init with
      | .own => s.setMe { s.me with phase := .data }
      | .ext => s
    match s.bus.rw with
    | .w => s1.setBus { s.bus with phase := .wIdle }
    | .r =>
      let s2 := s1.setBus { s.bus with phase := .rDatawait }
      if s.bus.tgt = .ownSlv then slaveLatch evTxReady s2 else s2

/-- `AfterAddrNack(d)` (R285). -/
def afterAddrNack (d : Driver) (s : State) : State :=
  (s.record (.sym .nack d)).setBus { s.bus with phase := .ended }

/-- `DriveData(init, b)` (R286). -/
def driveData (init : Initiator) (b : Byte) (s : State) : State :=
  let s1 := (s.record (.sym (.data b) (drv init))).setBus { s.bus with init := init, byte := b, phase := .wAckwait }
  if s.bus.tgt = .ownSlv then slaveLatch evRxReady (s1.setSl { s.sl with rxdat := b }) else s1

/-- `SlaveAckData()` (R286). -/
def slaveAckData (s : State) : State :=
  if s.bus.phase = .wAckwait then s.setBus { s.bus with phase := .wIdle } else s

/-- `SupplyData(d, b)` (R287). -/
def supplyData (d : Driver) (b : Byte) (s : State) : State :=
  if s.bus.phase ≠ .rDatawait then s
  else
    let s1 := (s.record (.sym (.data b) d)).setBus { s.bus with byte := b, phase := .rAckwait }
    match s.bus.init with
    | .own => s1.setMe { s.me with dat := b, full := true }
    | .ext => s1

/-- `Stop(d)` (R297). -/
def busStop (d : Driver) (s : State) : State :=
  ((s.record (.sym .stop d)).setBus { s.bus with phase := .idle, tgt := .none }).setSl { s.sl with sel := .nsel }

/-- `ReadAck(d)` (R298). -/
def readAck (d : Driver) (s : State) : State :=
  let s1 := (s.record (.sym .ack d)).setBus { s.bus with phase := .rDatawait }
  if s.bus.tgt = .ownSlv then slaveLatch evTxReady s1 else s1

/-! ## Reset (R360, R362) -/

/-- The RESET step: every register at its reset value, the holds abandoned; memory, `haz`, `trace`, the inputs and the
parameters are not changed (R360, R362). -/
def resetEngine (s : State) : State :=
  { s with
    dcm := Dcm.reset
    chans := s.chans.map (fun _ => Chan.reset)
    me := Master.reset
    sl := Slave.reset
    bus := Bus.reset
    fg := { s.fg with hold := none }
    int := { s.int with hold := none } }

end Sys2Proof.Machine
end

