-- ==== Sys2Proof/Machine/Dcm.lean ====
section
/-! DEFINITION. The four host operations of the Descriptor/Channel Manager (`40_dma_channel_manager.md`): DMA.ENABLE,
CH.TAKE, CH.ARM, CH.WAIT, and the wait loop that CH.WAIT and M.WAIT share. -/

namespace Sys2Proof.Machine

/-- DMA.ENABLE (R141). -/
def execDmaEnable (base : Word) (s : State) : Result :=
  let i := Instr.dmaEnable base
  withInputs i s <|
    if s.dcm.en then finish i .cfgAlreadyEnabled s
    else if base.toNat % s.par.descAlign ≠ 0 then finish i .cfgBadBase s
    else if base.toNat + s.tableBytes > 2 ^ 32 then finish i .cfgBadBase s
    else if !memAdmit s.par base.toNat s.tableBytes then finish i .cfgBadBase s
    else finish i .ok (s.setDcm ⟨true, base⟩)

/-- CH.TAKE (R142). -/
def execChTake (c : ChIdx) (s : State) : Result :=
  let i := Instr.chTake c
  withInputs i s <|
    if !s.dcm.en then finish i .lifecycle s
    else if !s.chExists c then finish i .cfgBadChannel s
    else if (s.ch c).own ≠ .free then finish i .chAlreadyTaken s
    else finish i .ok (s.setCh c { s.ch c with own := .held })

/-- The channel registers CH.ARM writes for a valid Transfer (R145). -/
def armedChan (t : Transfer) : Chan where
  own     := .xfer
  enabled := true
  trig    := trigOfCode t.trig
  active  := true
  err     := .none
  rem     := t.count.setWidth 11
  src     := ⟨t.src, BitVec.ofNat 32 (srcSpan t)⟩
  dst     := ⟨t.dst, BitVec.ofNat 32 (dstSpan t)⟩

/-- CH.ARM (R145), and the hazard of arming (R367). -/
def execChArm (c : ChIdx) (t : Transfer) (s : State) : Result :=
  let i := Instr.chArm c t
  withInputs i s <|
    if !s.dcm.en then finish i .lifecycle s
    else if !s.chExists c then finish i .cfgBadChannel s
    else if (s.ch c).own ≠ .held then finish i .lifecycle s
    else if !validTransfer s.par t false then finish i .cfgDegenerateTransfer s
    else match buildDescriptor c t s with
      | none => .fault .rowNotAdmitted
      | some s1 => finish i .ok (noteArm c (s1.setCh c (armedChan t)))

/-- What a WAIT does to its channel when its hold lifts: ownership and buffers move back, both flags clear (R146, R204). -/
def releasedChan (x : Chan) : Chan :=
  { x with active := false, err := .none, src := .empty, dst := .empty, own := .held }

/-- What follows the hold of a WAIT (R146, R204); M.WAIT hands back the channel it has read before the hold. -/
def finishWait (h : Hold) (s : State) : Result :=
  match h with
  | .chWait c => finish (.chWait c) (chWaitStatus (s.ch c).err) (s.setCh c (releasedChan (s.ch c)))
  | .mWait c =>
    answer .mWait (mWaitStatus s.me.fault (s.ch c).err) 0 c
      ((s.setCh c (releasedChan (s.ch c))).setMe { s.me with fault := .none, full := false, phase := .idle })

/-- `hold until cond` and what follows it, in the current context: when the condition holds the operation ends, otherwise the
context is blocked in it and nothing else changes (R10, R146, R204). -/
def holdOrFinish (h : Hold) (s : State) : Result :=
  if s.holdLifted h then finishWait h (s.setHold s.cur none) else .next (s.setHold s.cur (some h))

/-- CH.WAIT (R146). -/
def execChWait (c : ChIdx) (s : State) : Result :=
  let i := Instr.chWait c
  withInputs i s <|
    if !s.dcm.en then finish i .lifecycle s
    else if !s.chExists c then finish i .cfgBadChannel s
    else if (s.ch c).own ≠ .xfer then finish i .lifecycle s
    else if s.me.phase ≠ .idle && decide (s.me.ch = c) then finish i .lifecycle s
    else holdOrFinish (.chWait c) s

end Sys2Proof.Machine
end

