-- ==== Sys2Proof/Machine/Master.lean ====
section
/-! DEFINITION. The four host operations of the Master Engine (`41_master_engine.md`): M.WRITE_ALL, M.READ_ALL, M.START,
M.WAIT. -/

namespace Sys2Proof.Machine

/-- The master registers that M.WRITE_ALL and M.READ_ALL write (R191, R192); `m_dat` is not written. -/
def describedMaster (dir : Dir) (addr : Nat) (ptr len : Word) (c : ChIdx) (m : Master) : Master :=
  { m with
    phase := .pending
    dir := dir
    addr := BitVec.ofNat 7 addr
    ch := c
    ptr := ptr
    len := len.setWidth 11
    k := 0
    fault := .none
    full := false }

/-- The channel registers that M.WRITE_ALL and M.READ_ALL write: handle and buffer move into the Transfer (R191, R192). -/
def describedChan (dir : Dir) (ptr len : Word) (x : Chan) : Chan :=
  match dir with
  | .w => { x with src := ⟨ptr, len⟩, dst := .empty, own := .xfer }
  | .r => { x with src := .empty, dst := ⟨ptr, len⟩, own := .xfer }

/-- Describe a master transaction: the checks in their order (D24), then the effect (R191, R192). -/
def describe (i : Instr) (dir : Dir) (addr : Nat) (ptr len : Word) (c : ChIdx) (s : State) : Result :=
  withInputs i s <|
    if addr > 127 then finish i .cfgInvalidAddress s
    else if len = 0 then finish i .ok s
    else if s.me.phase ≠ .idle then finish i .lifecycle s
    else if !s.chExists c then finish i .cfgBadChannel s
    else if !s.dcm.en then finish i .lifecycle s
    else if (s.ch c).own ≠ .held then finish i .lifecycle s
    else if badMasterBuffer s.par ptr len then finish i .cfgDegenerateTransfer s
    else finish i .ok
      ((s.setCh c (describedChan dir ptr len (s.ch c))).setMe (describedMaster dir addr ptr len c s.me))

/-- M.WRITE_ALL (R191). -/
def execMWriteAll (addr : Nat) (ptr len : Word) (c : ChIdx) (s : State) : Result :=
  describe (.mWriteAll addr ptr len c) .w addr ptr len c s

/-- M.READ_ALL (R192). -/
def execMReadAll (addr : Nat) (ptr len : Word) (c : ChIdx) (s : State) : Result :=
  describe (.mReadAll addr ptr len c) .r addr ptr len c s

/-- The channel registers M.START writes (R194). -/
def startedChan (len : Count) (x : Chan) : Chan :=
  { x with trig := .i2cMst, enabled := true, err := .none, rem := len, active := true }

/-- M.START (R194), and the hazard of arming (R367). -/
def execMStart (s : State) : Result :=
  withInputs .mStart s <|
    if s.me.phase ≠ .pending then finish .mStart .lifecycle s
    else match buildDescriptor s.me.ch (masterTransfer s.par s.me) s with
      | none => .fault .rowNotAdmitted
      | some s1 =>
        finish .mStart .ok
          ((noteArm s.me.ch (s1.setCh s.me.ch (startedChan s.me.len (s.ch s.me.ch)))).setMe { s.me with phase := .start })

/-- M.WAIT (R204). -/
def execMWait (s : State) : Result :=
  withInputs .mWait s <|
    if s.me.phase = .idle || s.me.phase = .pending then finish .mWait .lifecycle s
    else holdOrFinish (.mWait s.me.ch) s

end Sys2Proof.Machine
end

