-- ==== Sys2Proof/Machine/SlaveOps.lean ====
section
/-! DEFINITION. The two host operations of the Slave Protocol State Machine (`42_slave_state_machine.md`): S.ENABLE and
S.SERVICE with its cases. -/

namespace Sys2Proof.Machine

/-- S.ENABLE (R241). -/
def execSEnable (addr : Nat) (s : State) : Result :=
  let i := Instr.sEnable addr
  withInputs i s <|
    if addr > 127 then finish i .cfgInvalidAddress s
    else if s.sl.en then finish i .cfgAlreadyEnabled s
    else finish i .ok (s.setSl { s.sl with addr := BitVec.ofNat 7 addr, en := true })

/-- The answer of one invocation: event code read, UNDERRUN, and `s_state` after the step (R104, R242). -/
def serviced (st : Status) (ev : EvCode) (underrun : Bool) (s : State) : Result :=
  answer .sService st (serviceInfo ev underrun s.sl.state.code) 0 s

/-- Case address match (R244). -/
def serviceAddrMatch (s : State) : State :=
  afterAddrAck
    ((s.setSl { s.sl with state := .addressMatched, pend := evNone }).record (.sym .ack .ownSlave))

/-- Case byte received (R245). -/
def serviceRxReady (s : State) : State :=
  slaveAckData
    ((s.setSl { s.sl with last := s.sl.rxdat, lastValid := true, state := .receivingByte, pend := evNone }).record
      (.sym .ack .ownSlave))

/-- Case byte requested, a byte is available (R246). -/
def serviceTxReady (s : State) : State :=
  supplyData .ownSlave (txf s.sl.last)
    (s.setSl { s.sl with txdat := txf s.sl.last, state := .transmittingByte, pend := evNone })

/-- Case byte requested, none available (R247): under STALL the event stays pending; under DRAW the byte is a free value. -/
def serviceUnderrun (s : State) : State :=
  match s.par.txUnderrun with
  | .stall => s.setSl { s.sl with state := .transmittingByte }
  | .draw =>
    supplyData .ownSlave (Config.freeByte s.draws)
      ((s.setSl { s.sl with state := .transmittingByte, pend := evNone }).nextDraw)

/-- Case fault code (R249): `s_pend` is not cleared and the bus is not touched. -/
def serviceFault (s : State) : State :=
  s.setSl { s.sl with state := .fault, fatal := true, faultCode := s.sl.pend }

/-- S.SERVICE (R242): one read of the indicator, one case. -/
def execSService (s : State) : Result :=
  withInputs .sService s <|
    if s.sl.fatal then answer .sService .fatal (serviceInfo s.sl.faultCode false SState.fault.code) 0 s
    else if !s.sl.en then serviced .wouldBlock evNone false s
    else if s.sl.pend = evNone then serviced .wouldBlock evNone false s
    else if s.sl.pend = evAddrMatch then serviced .ok evAddrMatch false (serviceAddrMatch s)
    else if s.sl.pend = evRxReady then serviced .ok evRxReady false (serviceRxReady s)
    else if s.sl.pend = evTxReady then
      if s.sl.lastValid then serviced .ok evTxReady false (serviceTxReady s)
      else serviced .ok evTxReady true (serviceUnderrun s)
    else serviced .fatal s.sl.pend false (serviceFault s)

end Sys2Proof.Machine
end

