-- ==== Sys2Proof/Machine/Dispatch.lean ====
section
/-! DEFINITION. One arm per host operation: the meaning of each row of the opcode table (R103). -/

namespace Sys2Proof.Machine

def exec (i : Instr) (s : State) : Host.Outcome State Fault Refusal :=
  match i with
  | .dmaEnable base => Sys2Proof.Machine.execDmaEnable base s
  | .chTake c => Sys2Proof.Machine.execChTake c s
  | .chArm c t => Sys2Proof.Machine.execChArm c t s
  | .chWait c => Sys2Proof.Machine.execChWait c s
  | .mWriteAll addr ptr len c => Sys2Proof.Machine.execMWriteAll addr ptr len c s
  | .mReadAll addr ptr len c => Sys2Proof.Machine.execMReadAll addr ptr len c s
  | .mStart => Sys2Proof.Machine.execMStart s
  | .mWait => Sys2Proof.Machine.execMWait s
  | .sEnable addr => Sys2Proof.Machine.execSEnable addr s
  | .sService => Sys2Proof.Machine.execSService s

end Sys2Proof.Machine
end

