-- ==== Sys2Proof/Machine/Framing.lean ====
section
/-! DEFINITION. The master framing unit, agent MFU (`41_master_engine.md` section 3). -/

namespace Sys2Proof.Machine

/-- The enabling condition of each MFU step (R197 to R203); every one needs `clk_i2c` (R195). -/
def mfuEnabled (m : MfuStep) (s : State) : Bool :=
  s.inp.clkI2c &&
  match m with
  | .start _ _ => decide (s.me.phase = .start) && decide (s.bus.phase = .idle)
  | .wdrive _ =>
    decide (s.me.phase = .data) && decide (s.me.dir = .w) && decide (s.bus.init = .own) &&
    decide (s.bus.phase = .wIdle) && s.me.full
  | .wdone =>
    decide (s.me.phase = .data) && decide (s.me.dir = .w) && decide (s.bus.init = .own) &&
    decide (s.bus.phase = .wIdle) && decide (s.me.k = s.me.len) && !s.me.full
  | .rrespond =>
    decide (s.me.phase = .data) && decide (s.me.dir = .r) && decide (s.bus.init = .own) &&
    decide (s.bus.phase = .rAckwait) && !s.me.full && decide ((s.ch s.me.ch).err = .none)
  | .nack =>
    (decide (s.me.phase = .addr) || decide (s.me.phase = .data)) && decide (s.bus.init = .own) &&
    decide (s.bus.phase = .ended)
  | .dabort =>
    decide (s.me.phase = .data) && decide (s.bus.init = .own) && decide ((s.ch s.me.ch).err = .dmaAbort) &&
    ((decide (s.me.dir = .w) && decide (s.bus.phase = .wIdle)) ||
     (decide (s.me.dir = .r) && decide (s.bus.phase = .rAckwait)))

/-- The own master gives up a transaction: fault recorded, channel stopped, M_DONE (R197, R198, R202, R208). -/
def masterFault (f : MFault) (s : State) : State :=
  (stopChannel s.me.ch s).setMe { s.me with fault := f, phase := .done }

/-- M_DONE without a fault (R199, R200, R203). -/
def masterDone (s : State) : State := s.setMe { s.me with phase := .done }

/-- Step `start` (R197). -/
def mfuStart (arb : Arb) (present : Bool) (s : State) : State :=
  let ab := addressByte s.me.addr s.me.dir
  match arbitrate s.par ab arb with
  | .win =>
    let s1 := driveAddress .own ab present s
    s1.setMe { s1.me with phase := .addr }
  | .lose b => masterFault .arbLost (driveAddress .ext b present s)

/-- Step `wdrive` (R198). -/
def mfuWdrive (arb : Arb) (s : State) : State :=
  let b := s.me.dat
  let s1 := s.setMe { s.me with full := false, k := s.me.k + 1 }
  match arbitrate s.par b arb with
  | .win => driveData .own b s1
  | .lose b' => masterFault .arbLost (driveData .ext b' s1)

/-- Step `wdone` (R199). -/
def mfuWdone (s : State) : State := masterDone (busStop .ownMaster s)

/-- Step `rrespond` (R200). -/
def mfuRrespond (s : State) : State :=
  if s.me.k.toNat < s.me.len.toNat then readAck .ownMaster s
  else masterDone (busStop .ownMaster (s.record (.sym .nack .ownMaster)))

/-- Step `nack` (R202). -/
def mfuNack (s : State) : State :=
  let f := if s.me.phase = .addr then MFault.nackAddr else MFault.nackData
  let s1 := s.setCh s.me.ch { s.ch s.me.ch with err := .periphNack }
  let s2 := busStop .ownMaster (stopChannel s.me.ch s1)
  s2.setMe { s2.me with fault := f, phase := .done }

/-- Step `dabort` (R203). -/
def mfuDabort (s : State) : State :=
  let s1 := match s.me.dir with
    | .r => s.record (.sym .nack .ownMaster)
    | .w => s
  masterDone (busStop .ownMaster s1)

/-- A step of the MFU; one that is not enabled passes (R195). -/
def mfuStep (m : MfuStep) (s : State) : State :=
  if !mfuEnabled m s then s
  else match m with
    | .start arb present => mfuStart arb present s
    | .wdrive arb => mfuWdrive arb s
    | .wdone => mfuWdone s
    | .rrespond => mfuRrespond s
    | .nack => mfuNack s
    | .dabort => mfuDabort s

end Sys2Proof.Machine
end

