-- ==== Sys2Proof/Machine/Environment.lean ====
section
/-! DEFINITION. The agents BUS and ENV (`43_bus_and_environment.md` section 3, R208, R256) and the moves of the parties that
are not on the bus: the clock and pin providers and the host processor's own memory accesses (R34, R364 to R367). -/

namespace Sys2Proof.Machine

/-- BUS step `nobody` is enabled (R288). -/
def busEnabled (s : State) : Bool := decide (s.bus.phase = .addr) && decide (s.bus.tgt = .none)

/-- BUS step `nobody` (R288). -/
def busStep (s : State) : State := if busEnabled s then afterAddrNack .nobody s else s

/-- The enabling condition of each ENV step (R208, R256, R289 to R295). -/
def envEnabled (e : EnvStep) (s : State) : Bool :=
  match e with
  | .xsAddr _ => decide (s.bus.phase = .addr) && decide (s.bus.tgt = .extSlv)
  | .xsWdata _ => decide (s.bus.phase = .wAckwait) && decide (s.bus.tgt = .extSlv)
  | .xsRdata _ => decide (s.bus.phase = .rDatawait) && decide (s.bus.tgt = .extSlv)
  | .xmStart _ _ _ => decide (s.bus.phase = .idle)
  | .xmWdata _ => decide (s.bus.init = .ext) && decide (s.bus.phase = .wIdle)
  | .xmRresp _ => decide (s.bus.init = .ext) && decide (s.bus.phase = .rAckwait)
  | .xmStop => decide (s.bus.init = .ext) && (decide (s.bus.phase = .wIdle) || decide (s.bus.phase = .ended))
  | .xmRestart _ _ _ => decide (s.bus.init = .ext) && (decide (s.bus.phase = .wIdle) || decide (s.bus.phase = .ended))
  | .timeout =>
    decide (s.par.busTimeout = .may) &&
    (decide (s.me.phase = .start) || decide (s.me.phase = .addr) || decide (s.me.phase = .data))
  | .slvFault code =>
    s.par.slvFaults.contains code && isFaultCode code && s.sl.en && !s.sl.fatal && !isFaultCode s.sl.pend

/-- `xs_addr` (R289). -/
def envXsAddr (ack : Bool) (s : State) : State :=
  if ack then afterAddrAck (s.record (.sym .ack .extSlave)) else afterAddrNack .extSlave s

/-- `xs_wdata` (R290). -/
def envXsWdata (ack : Bool) (s : State) : State :=
  if ack then (s.record (.sym .ack .extSlave)).setBus { s.bus with phase := .wIdle }
  else (s.record (.sym .nack .extSlave)).setBus { s.bus with phase := .ended }

/-- `xm_rresp` (R294). -/
def envXmRresp (ack : Bool) (s : State) : State :=
  if ack then readAck .extMaster s
  else (s.record (.sym .nack .extMaster)).setBus { s.bus with phase := .ended }

/-- The repeated START of `xm_end` (R295). -/
def envXmRestart (a7 : BusAddr) (rw : Dir) (present : Bool) (s : State) : State :=
  driveAddress .ext (addressByte a7 rw) present
    ((s.setBus { s.bus with tgt := .none }).setSl { s.sl with sel := .nsel })

/-- `timeout` (R208). -/
def envTimeout (s : State) : State :=
  let s1 := s.record (.fault .busTimeout)
  let s2 :=
    if s.me.phase ≠ .start && decide (s.bus.init = .own) && decide (s.bus.phase ≠ .idle) then
      s1.setBus { s.bus with phase := .hung }
    else s1
  masterFault .busTimeout s2

/-- `HW_SLV_FAULT(code)` (R256). -/
def envSlvFault (code : EvCode) (s : State) : State :=
  (s.record (.fault (.slave code))).setSl { s.sl with pend := code }

/-- A step of the environment; one that is not enabled passes (R296: ENV moves only when its rules enable it). -/
def envStep (e : EnvStep) (s : State) : State :=
  if !envEnabled e s then s
  else match e with
    | .xsAddr ack => envXsAddr ack s
    | .xsWdata ack => envXsWdata ack s
    | .xsRdata b => supplyData .extSlave b s
    | .xmStart a7 rw present => driveAddress .ext (addressByte a7 rw) present s
    | .xmWdata b => driveData .ext b s
    | .xmRresp ack => envXmRresp ack s
    | .xmStop => busStop .extMaster s
    | .xmRestart a7 rw present => envXmRestart a7 rw present s
    | .timeout => envTimeout s
    | .slvFault code => envSlvFault code s

/-- A host processor access to `[a, a + w)`: the port is outside the spec (R78), an address `MEM_ADMIT` refuses is no memory
(R72, R77), anything else happens and is checked for hazards (R366, R367). Log entry 7. -/
def hostAccess (a : Word) (w : AccWidth) (isStore : Bool) (s : State) (effect : State → State) : Result :=
  if spanContains a w.bytes s.par.aMstdat then .refused .hostPortAccess
  else if !memAdmit s.par a.toNat w.bytes then .fault .hostNotAdmitted
  else .next (effect (s.noteHaz (isStore && s.hitsTable a.toNat w.bytes) (s.hostAliases a.toNat w.bytes)))

/-- The moves of the outside parties that are not on the bus (R34, R364, R365, R366, R367, R377). -/
def outsideStep (o : OutsideStep) (s : State) : Result :=
  match o with
  | .clkDma on => .next (s.setInp { s.inp with clkDma := on })
  | .clkI2c on => .next (s.setInp { s.inp with clkI2c := on })
  | .pins ok => .next (s.setInp { s.inp with pinsOk := ok })
  | .load a w => hostAccess a w false s id
  | .store a w v => hostAccess a w true s (fun x => x.memWrite a.toNat w.bytes v)
  | .append c p => .next (s.appendPacket c p)

end Sys2Proof.Machine
end

