-- ==== Sys2Proof/Machine/Sequencer.lean ====
section
/-! DEFINITION. The channel sequencer, agent SEQ[c] (`40_dma_channel_manager.md` section 3). -/

namespace Sys2Proof.Machine

/-- An endpoint of an element move: its address, and whether it is the master data port (R148: `sp`, `dp`). -/
structure Endpoint where
  addr : Word
  port : Bool
  deriving DecidableEq, Repr

/-- The source of the element with `r` remaining in a fetched row (R148: `sa`, `sp`). -/
def rowSource (p : Params) (row : Row) (r : Count) : Endpoint :=
  let a := elemAddr row.srcEnd r (cfgWidth row.cfg) (cfgSrcInc row.cfg)
  ⟨a, decide (a = p.aMstdat)⟩

/-- The destination of the element with `r` remaining in a fetched row (R148: `da`, `dp`). -/
def rowDest (p : Params) (row : Row) (r : Count) : Endpoint :=
  let a := elemAddr row.dstEnd r (cfgWidth row.cfg) (cfgDstInc row.cfg)
  ⟨a, decide (a = p.aMstdat)⟩

/-- The causes of an abort that a fetched row shows before anything moves (R148, R150): a malformed row or a count below what
remains, a port endpoint on a channel that may not use the port, an endpoint memory does not admit. -/
def rowAborts (s : State) (c : ChIdx) (row : Row) : Bool :=
  let r := (s.ch c).rem
  let w := elemBytes (cfgWidth row.cfg)
  let sp := rowSource s.par row r
  let dp := rowDest s.par row r
  !rowWellFormed row || decide (r.toNat > cfgCount row.cfg) ||
  ((sp.port || dp.port) && (decide (w ≠ 1) || decide ((s.ch c).trig ≠ .i2cMst))) ||
  (!sp.port && !memAdmit s.par sp.addr.toNat w) ||
  (!dp.port && !memAdmit s.par dp.addr.toNat w)

/-- Read the element at an endpoint (R148). -/
def readEndpoint (e : Endpoint) (w : Nat) (s : State) : Word × State :=
  if e.port then portRead s else (s.memRead e.addr.toNat w, s)

/-- Write the element to an endpoint (R148). -/
def writeEndpoint (e : Endpoint) (w : Nat) (v : Word) (s : State) : State :=
  if e.port then portWrite v s else s.memWrite e.addr.toNat w v

/-- The hazards of an element move by channel `c` (R366, R367). -/
def noteMove (c : ChIdx) (sp dp : Endpoint) (w : Nat) (s : State) : State :=
  s.noteHaz (!dp.port && s.hitsTable dp.addr.toNat w)
    ((!sp.port && s.readAliases c sp.addr.toNat w) || (!dp.port && s.writeAliases c dp.addr.toNat w))

/-- Count one element: `ch_rem[c] <- r - 1`, and the last one clears `ch_active[c]` (R148, R151). -/
def countElement (c : ChIdx) (s : State) : State :=
  let x := s.ch c
  s.setCh c { x with rem := x.rem - 1, active := x.active && decide (x.rem - 1 ≠ 0) }

/-- Move one element of a row that does not abort (R148). A row changed under an armed channel is followed as it stands: "moves
data by the changed addresses" (R366). -/
def moveElement (c : ChIdx) (row : Row) (s : State) : State :=
  let w := elemBytes (cfgWidth row.cfg)
  let sp := rowSource s.par row (s.ch c).rem
  let dp := rowDest s.par row (s.ch c).rem
  let x := readEndpoint sp w (noteMove c sp dp w s)
  countElement c ((writeEndpoint dp w x.1 x.2).record (.dma c sp.addr dp.addr w x.1))

/-- The element step of SEQ[c] (R148); a row fetch that memory does not admit is an abort too (R73). -/
def seqStep (c : ChIdx) (s : State) : State :=
  if !s.seqEnabled c then s
  else if !rowAdmitted s.par (s.rowAddr c) then abort c s
  else if rowAborts s c (s.readRow (s.rowAddr c)) then abort c s
  else moveElement c (s.readRow (s.rowAddr c)) s

end Sys2Proof.Machine
end

