-- ==== Sys2Proof/Machine/Turns.lean ====
section
/-! DEFINITION. What the party whose turn it is does: the host contexts issue and wait (R20, R100, R331, R338), the agents
take their steps. `takeTurn` is the step relation of the spec, labelled by the turn. -/

namespace Sys2Proof.Machine

/-- Issue a packet: an illegal one is answered at once, before the clock check (R112, R140), a legal one is executed. -/
def issue (p : Packet) (s : State) : Result :=
  match decode p with
  | none => answerIllegal p s
  | some i => exec i s

/-- May this context run? There is one hardware thread and INT pre-empts FG, so while INT is blocked FG does not run
(R20, R331, R338). -/
def ctxRuns (c : Ctx) (s : State) : Bool :=
  match c with
  | .int => true
  | .fg => s.int.hold.isNone

/-- A turn of a host context: blocked in a WAIT, it looks at the condition again; otherwise it issues its next packet. -/
def hostTurn (c : Ctx) (s : State) : Result :=
  if !ctxRuns c s then .next s
  else match (s.ctx c).hold, (s.ctx c).prog with
    | some h, _ => holdOrFinish h (s.setCur c)
    | none, [] => .next s
    | none, p :: rest => issue p ((s.setCtx c ⟨rest, none⟩).setCur c)

/-- The step of the party whose turn it is (R20). -/
def takeTurn (t : Turn) (s : State) : Result :=
  match t with
  | .host c => hostTurn c s
  | .seq c => .next (seqStep c s)
  | .mfu m => .next (mfuStep m s)
  | .bus => .next (busStep s)
  | .env e => .next (envStep e s)
  | .reset => .next (resetEngine s)
  | .outside o => outsideStep o s

/-- Is the hardware step of a turn enabled? The host's and the outside parties' moves are their own choice (R373). -/
def Turn.enabled (t : Turn) (s : State) : Bool :=
  match t with
  | .host c => ctxRuns c s && ((s.ctx c).hold.any (fun h => s.holdLifted h) || !(s.ctx c).prog.isEmpty)
  | .seq c => s.seqEnabled c
  | .mfu m => mfuEnabled m s
  | .bus => busEnabled s
  | .env e => envEnabled e s
  | .reset => true
  | .outside _ => true

/-- The state in which FG issues this packet at the very next step: FG's turn comes first, the packet is FG's next one, and
no context is blocked. -/
def State.offer (s : State) (p : Packet) : State :=
  { s with
    sched := .host .fg :: s.sched
    fg := ⟨p :: s.fg.prog, none⟩
    int := { s.int with hold := none } }

end Sys2Proof.Machine
end

