-- ==== Sys2Proof/Machine/Step.lean ====
section
/-! DEFINITION. One step of the machine: the party at the head of the schedule takes its turn; with no turn scheduled nobody
moves. The engine fetches no instruction stream (R2, R37); a host context issues its next packet when its turn comes. -/

namespace Sys2Proof.Machine

/-- One step: the first turn of the schedule is taken. -/
def step (s : State) : Host.Outcome State Fault Refusal :=
  match s.sched with
  | [] => .next s
  | t :: rest => takeTurn t (s.setSched rest)

/-- The state in which the very next step issues the packet of a table row's bits, from FG (log entry 3). -/
def State.withFetchWord (s : State) (nbits w : Nat) : State := s.offer (tablePacket nbits w)

end Sys2Proof.Machine
end

