-- ==== Sys2Proof/Safety.lean ====
section
/-! DEFINITION. The terms claims are stated in: the invariants of R42, the parameter constraints of R8, the launch premises
of R363, the runs of R377 and their end, the environment and fairness premises of R296 and R373, and what it is for a step to leave
a part of the state alone. -/

namespace Sys2Proof.Machine

/-! ## Parameters, launch, end of run -/

/-- The constraints on the parameters (R7, R8): `N_CH` is in 1..256, `DESC_ALIGN` is a power of two of at least 16, the data port is in no range
of memory, and the reportable slave faults are fault codes. -/
def ParamsOk (p : Params) (nCh : Nat) : Prop :=
  (1 ≤ nCh ∧ nCh ≤ 256) ∧
  (∃ k, 4 ≤ k ∧ p.descAlign = 2 ^ k) ∧
  (∀ r ∈ p.memMap, ¬ (r.base ≤ p.aMstdat.toNat ∧ p.aMstdat.toNat < r.base + r.size)) ∧
  (∀ code ∈ p.slvFaults, 4 ≤ code.toNat)

/-- The launch premises on the inputs: `clk_dma` = `clk_i2c` = `pins_ok` = 1 (R34, R363). -/
def InputsOn (s : State) : Prop := s.inp.clkDma = true ∧ s.inp.clkI2c = true ∧ s.inp.pinsOk = true

/-- `haz` is empty, the premise every claim takes of its final state (R35). -/
def HazEmpty (s : State) : Prop := s.haz.descWrite = false ∧ s.haz.bufferAlias = false

/-- A state in which a run is over (R377, D53): no operation left to issue in either context, no WAIT holds, the master is idle, no channel is
in flight, the bus is idle or hung, and the interrupt line is low. -/
def RunOver (s : State) : Prop :=
  s.fg.prog = [] ∧ s.int.prog = [] ∧ s.fg.hold = none ∧ s.int.hold = none ∧ s.me.phase = .idle ∧
  (∀ c : ChIdx, (s.ch c).own ≠ .xfer) ∧ (s.bus.phase = .idle ∨ s.bus.phase = .hung) ∧ s.sIrq = false

/-! ## Invariants (R42) -/

/-- DMA.ENABLE admits only a good table, and nothing changes it afterwards (R73, R76, R141). -/
def TableOk (s : State) : Prop :=
  s.dcm.en = true →
    s.dcm.base.toNat % s.par.descAlign = 0 ∧ s.dcm.base.toNat + s.tableBytes ≤ 2 ^ 32 ∧
    memAdmit s.par s.dcm.base.toNat s.tableBytes = true

/-- The slave and the bus: R42 items 4 to 7, with the two facts that make them inductive: a targeted own slave is enabled
(R282), and the selection says whether and in which direction the own slave is the target (R31). -/
structure SlaveBusOk (s : State) : Prop where
  targetEnabled : s.bus.tgt = .ownSlv → s.sl.en = true
  pendTarget : (s.sl.pend = evAddrMatch ∨ s.sl.pend = evRxReady ∨ s.sl.pend = evTxReady) →
    s.sl.en = true ∧ s.bus.tgt = .ownSlv
  pendAddr : s.sl.pend = evAddrMatch → s.bus.phase = .addr ∨ s.bus.phase = .hung
  pendRx : s.sl.pend = evRxReady → s.bus.phase = .wAckwait ∨ s.bus.phase = .hung
  pendTx : s.sl.pend = evTxReady → s.bus.phase = .rDatawait ∨ s.bus.phase = .hung
  faultFatal : s.sl.state = .fault ↔ s.sl.fatal = true
  receivedValid : s.sl.state = .receivingByte → s.sl.lastValid = true
  idleFree : s.bus.phase = .idle → s.bus.tgt = .none ∧ s.sl.sel = .nsel
  selTarget : (s.bus.tgt = .ownSlv ↔ s.sl.sel ≠ .nsel) ∧ (s.sl.sel = .selW → s.bus.rw = .w) ∧ (s.sl.sel = .selR → s.bus.rw = .r)

/-- What the own bytes of a transaction have come to: driven or drained, waiting in the data register of a write, and still
to move by the channel (R24, R25, R37). -/
def bytesSeen (s : State) : Nat :=
  s.me.k.toNat + (if s.me.dir = .w ∧ s.me.full = true then 1 else 0) + (s.ch s.me.ch).rem.toNat

/-- INT issues S.SERVICE and nothing else, and so is never blocked (R20, R338, D51): the convention the engine does not
check. -/
def IntServesOnly (s : State) : Prop :=
  s.int.hold = none ∧ ∀ p ∈ s.int.prog, decode p = none ∨ decode p = some .sService

/-- A turn that keeps the convention: it gives INT no packet but S.SERVICE (or an illegal one). -/
def Turn.servesOnly : Turn → Bool
  | .outside (.append .int p) => decide (decode p = none ∨ decode p = some .sService)
  | .outside (.append .fg _) => true
  | .outside (.clkDma _) => true
  | .outside (.clkI2c _) => true
  | .outside (.pins _) => true
  | .outside (.load _ _) => true
  | .outside (.store _ _ _) => true
  | .host _ => true
  | .seq _ => true
  | .mfu _ => true
  | .bus => true
  | .env _ => true
  | .reset => true

/-- The schedule keeps the convention (R338). -/
def ScheduleServesOnly (s : State) : Prop := ∀ t ∈ s.sched, t.servesOnly = true

/-- The channels and the master: R42 items 1, 2, 3 and 8, with what makes them inductive. The count of bytes (item 3, `m_k <=
m_len`), the master's row and the end of its Transfer with the transaction are asked for only while nothing has written into the table (R42: "with `haz` empty"), since a row
changed under the armed channel is followed as it stands (R366). -/
structure MasterOk (s : State) : Prop where
  armed : ∀ c : ChIdx, (s.ch c).active = true →
    (s.ch c).own = .xfer ∧ s.dcm.en = true ∧ (s.ch c).enabled = true ∧ 1 ≤ (s.ch c).rem.toNat
  taken : ∀ c : ChIdx, (s.ch c).own ≠ .free → s.dcm.en = true
  masterChannel : ∀ c : ChIdx, (s.ch c).own = .xfer → (s.ch c).trig = .i2cMst → c = s.me.ch ∧ s.me.phase ≠ .idle
  busy : s.me.phase ≠ .idle → (s.ch s.me.ch).own = .xfer ∧ 1 ≤ s.me.len.toNat ∧ s.me.len.toNat ≤ countMax
  buffer : s.me.phase ≠ .idle → badMasterBuffer s.par s.me.ptr (BitVec.ofNat 32 s.me.len.toNat) = false
  onBus : s.me.phase = .addr ∨ s.me.phase = .data →
    s.bus.phase = .hung ∨ (s.bus.init = .own ∧ s.bus.phase ≠ .idle)
  ownBus : s.bus.init = .own → s.bus.phase ≠ .idle → s.bus.phase ≠ .hung →
    (s.me.phase = .addr ∧ (s.bus.phase = .addr ∨ s.bus.phase = .ended)) ∨ (s.me.phase = .data ∧ s.bus.phase ≠ .addr)
  pendingFresh : s.me.phase = .pending → s.me.k = 0 ∧ s.me.full = false ∧ (s.ch s.me.ch).active = false
  counted : s.haz.descWrite = false → s.me.phase ≠ .idle → s.me.phase ≠ .pending → bytesSeen s ≤ s.me.len.toNat
  masterRow : s.haz.descWrite = false → s.me.phase ≠ .idle → s.me.phase ≠ .pending → (s.ch s.me.ch).active = true →
    s.readRow (s.rowAddr s.me.ch) = rowOf (masterTransfer s.par s.me)
  doneStopped : s.haz.descWrite = false → s.me.phase = .done → (s.ch s.me.ch).active = false
  errStopped : ∀ c : ChIdx, (s.ch c).err ≠ .none → (s.ch c).active = false
  nackDone : ∀ c : ChIdx, (s.ch c).err = .periphNack → c = s.me.ch ∧ s.me.phase = .done
  busDir : (s.bus.phase = .wIdle ∨ s.bus.phase = .wAckwait → s.bus.rw = .w) ∧
    (s.bus.phase = .rDatawait ∨ s.bus.phase = .rAckwait → s.bus.rw = .r)
  ownDir : s.bus.init = .own → s.bus.phase ≠ .idle → s.bus.phase ≠ .hung → s.bus.rw = s.me.dir
  trigger : s.me.phase ≠ .idle → s.me.phase ≠ .pending → (s.ch s.me.ch).trig = .i2cMst
  aborted : s.me.phase ≠ .idle → s.me.phase ≠ .pending → (s.ch s.me.ch).err = .dmaAbort →
    1 ≤ (s.ch s.me.ch).rem.toNat ∧ (s.me.dir = .w → s.me.full = false)
  chHold : ∀ c : ChIdx, s.fg.hold = some (.chWait c) → (s.ch c).own = .xfer ∧ (s.me.phase = .idle ∨ s.me.ch ≠ c)
  mHold : ∀ c : ChIdx, s.fg.hold = some (.mWait c) → c = s.me.ch ∧ s.me.phase ≠ .idle ∧ s.me.phase ≠ .pending

/-! ## What a step leaves alone -/

/-- Every byte of memory reads as before, but for those in `[a, a + n)`. -/
def BytesKeptOutside (s t : State) (a n : Nat) : Prop := ∀ x, x < a ∨ a + n ≤ x → t.byteAt x = s.byteAt x

/-- Every byte of memory reads as before. -/
def BytesKept (s t : State) : Prop := ∀ x, t.byteAt x = s.byteAt x

/-- Every channel but `c` is as before. -/
def OtherChansKept (s t : State) (c : ChIdx) : Prop := ∀ d : ChIdx, d ≠ c → t.ch d = s.ch d

/-- Parameters, inputs, the schedule, the packets still to issue and the running context are as before. -/
def SurroundingsKept (s t : State) : Prop :=
  t.par = s.par ∧ t.nCh = s.nCh ∧ t.inp = s.inp ∧ t.sched = s.sched ∧ t.fg.prog = s.fg.prog ∧
  t.int.prog = s.int.prog ∧ t.cur = s.cur

/-- The trace has grown by these records. -/
def Recorded (s t : State) (l : List Rec) : Prop := t.trace = s.trace ++ l

/-- The state grew by nothing but the OP record of this answer: no register, no memory byte, no bus symbol, "no trace record
other than the OP record" (R322). -/
def OnlyAnswered (s t : State) (i : Instr) (response : Word) : Prop :=
  t = { s with trace := s.trace ++ [Rec.op s.cur (Command.op i) response] }

/-- A response word from its fields, as a number: `CH` in bits 23:16, `INFO` in 15:8, `STATUS` in 7:0 (R104). -/
def reply (c : ChIdx) (info status : Nat) : Word := BitVec.ofNat 32 (c.toNat * 65536 + info * 256 + status)

/-- The operation answers at once, with `INFO` 0, this `CH` and this status, and changes nothing else (R322, R329). -/
def AnswersOnly (i : Instr) (s : State) (c : ChIdx) (status : Nat) : Prop :=
  ∃ t, exec i s = .next t ∧ OnlyAnswered s t i (reply c 0 status)

/-- The OP record of an operation that answers in the current context (R36). -/
def opRec (i : Instr) (s : State) (response : Word) : Rec := .op s.cur (.op i) response

/-- `[a, a + n)` and the region have a byte in common; a region of length 0 has none (R22, R367). -/
def SharesByte (a n : Nat) (r : Region) : Prop :=
  ∃ y, (a ≤ y ∧ y < a + n) ∧ r.start.toNat ≤ y ∧ y < r.start.toNat + r.len.toNat

/-- What `haz` becomes when channel `c` moves `w` bytes from memory at `src` to memory at `dst`, none standing for the data port:
a byte written into the table of an enabled engine is HAZ_DESC_WRITE (R366); a byte read from another in-flight Transfer's
destination, or written into its source or destination, is HAZ_BUFFER_ALIAS (R367; log entry 9). -/
def NotesMove (s t : State) (c : ChIdx) (src dst : Option Nat) (w : Nat) : Prop :=
  (t.haz.descWrite = true ↔ s.haz.descWrite = true ∨
    (s.dcm.en = true ∧ ∃ a, dst = some a ∧ ∃ y, (a ≤ y ∧ y < a + w) ∧
      s.dcm.base.toNat ≤ y ∧ y < s.dcm.base.toNat + 16 * s.nCh)) ∧
  (t.haz.bufferAlias = true ↔ s.haz.bufferAlias = true ∨
    ∃ (k : Nat) (x : Chan), s.chans[k]? = some x ∧ k ≠ c.toNat ∧ x.own = .xfer ∧
      ((∃ a, src = some a ∧ SharesByte a w x.dst) ∨
       (∃ a, dst = some a ∧ (SharesByte a w x.src ∨ SharesByte a w x.dst))))

/-- The enabling line of the element step (R148), with the request of the channel (R147) and that of the master data register
(R196) written out. -/
def SeqMayMove (s : State) (c : ChIdx) : Prop :=
  s.dcm.en = true ∧ s.inp.clkDma = true ∧ (s.ch c).enabled = true ∧ (s.ch c).active = true ∧ (s.ch c).err = .none ∧
  ((s.ch c).trig = .sw ∨
   ((s.ch c).trig = .i2cMst ∧ c = s.me.ch ∧ s.me.phase = .data ∧ s.bus.init = .own ∧
    ((s.me.dir = .w ∧ s.bus.phase = .wIdle ∧ s.me.full = false) ∨
     (s.me.dir = .r ∧ s.bus.phase = .rAckwait ∧ s.me.full = true))))

/-- The rows of the ownership table (R158) that an operation `i` issued in state `s` can take for channel `c`. -/
def OwnershipRow (i : Instr) (s : State) (c : ChIdx) (before after : Own) : Prop :=
  (before = .free ∧ after = .held ∧ i = .chTake c ∧ s.dcm.en = true) ∨
  (before = .held ∧ after = .xfer ∧
    ((∃ x, i = .chArm c x ∧ validTransfer s.par x false = true) ∨
     (∃ addr ptr len, (i = .mWriteAll addr ptr len c ∨ i = .mReadAll addr ptr len c) ∧ len ≠ 0 ∧ s.me.phase = .idle))) ∨
  (before = .xfer ∧ after = .held ∧
    ((i = .chWait c ∧ ((s.ch c).active = false ∨ (s.ch c).err ≠ .none) ∧ (s.me.phase = .idle ∨ s.me.ch ≠ c)) ∨
     (i = .mWait ∧ c = s.me.ch ∧ s.me.phase = .done ∧ (s.ch c).active = false)))

/-- The operations of the Descriptor/Channel Manager (R140). -/
def usesDcm : Instr → Bool
  | .dmaEnable _ | .chTake _ | .chArm _ _ | .chWait _ => true
  | .mWriteAll _ _ _ _ | .mReadAll _ _ _ _ | .mStart | .mWait => false
  | .sEnable _ | .sService => false

/-- The operations of the Master Engine (R140). -/
def usesMaster : Instr → Bool
  | .dmaEnable _ | .chTake _ | .chArm _ _ | .chWait _ => false
  | .mWriteAll _ _ _ _ | .mReadAll _ _ _ _ | .mStart | .mWait => true
  | .sEnable _ | .sService => false

/-- The channel whose row an operation builds, when it builds one (R144: "used by CH.ARM and M.START"). -/
def rowBuilt (i : Instr) (s : State) : Option ChIdx :=
  match i with
  | .chArm c _ => some c
  | .mStart => some s.me.ch
  | .dmaEnable _ | .chTake _ | .chWait _ | .mWriteAll _ _ _ _ | .mReadAll _ _ _ _ | .mWait | .sEnable _ | .sService => none

/-- The channel whose registers an operation may write: the one it names, or the master's (R38 "Flags written"). -/
def channelWritten (i : Instr) (s : State) : Option ChIdx :=
  match i with
  | .chTake c | .chArm c _ | .chWait c | .mWriteAll _ _ _ c | .mReadAll _ _ _ c => some c
  | .mStart | .mWait => some s.me.ch
  | .dmaEnable _ | .sEnable _ | .sService => none

/-- The turns taken one after the other, when each has a next state. -/
def takeTurns : List Turn → State → Option State
  | [], s => some s
  | t :: rest, s =>
    match takeTurn t s with
    | .next s' => takeTurns rest s'
    | .fault _ => none
    | .refused _ => none

/-- The reset column of R21 to R33, but for the fields it gives no value (R41, R360). -/
structure ResetValues (t : State) : Prop where
  dcmOff : t.dcm.en = false
  channels : ∀ c : ChIdx, (t.ch c).own = .free ∧ (t.ch c).enabled = false ∧ (t.ch c).trig = .sw ∧ (t.ch c).active = false ∧
    (t.ch c).err = .none ∧ (t.ch c).rem = 0 ∧ (t.ch c).src.len = 0 ∧ (t.ch c).dst.len = 0
  master : t.me.phase = .idle ∧ t.me.dir = .w ∧ t.me.addr = 0 ∧ t.me.ch = 0 ∧ t.me.ptr = 0 ∧ t.me.len = 0 ∧ t.me.k = 0 ∧
    t.me.fault = .none ∧ t.me.full = false
  slave : t.sl.en = false ∧ t.sl.state = .idle ∧ t.sl.lastValid = false ∧ t.sl.pend = evNone ∧ t.sl.sel = .nsel ∧
    t.sl.fatal = false ∧ t.sl.faultCode = 0
  busIdle : t.bus.phase = .idle ∧ t.bus.init = .own ∧ t.bus.tgt = .none ∧ t.bus.rw = .w

/-! ## The grammar of the bus (R281) -/

/-- The positions in the grammar of a transaction, START and ADDR told apart (R281). -/
inductive BusPos where
  | between | started | addressed (rw : Dir) | writing | written | owed | supplied | refused
  deriving DecidableEq, Repr

/-- The grammar as one step per symbol; only an external master may follow with a START instead of a STOP (R281, R295). -/
def BusPos.read : BusPos → Sym × Driver → Option BusPos
  | .between, (.start, _) => some .started
  | .started, (.addr _ rw, _) => some (.addressed rw)
  | .addressed .w, (.ack, _) => some .writing
  | .addressed .r, (.ack, _) => some .owed
  | .addressed _, (.nack, _) => some .refused
  | .writing, (.data _, _) => some .written
  | .writing, (.stop, _) => some .between
  | .writing, (.start, .extMaster) => some .started
  | .written, (.ack, _) => some .writing
  | .written, (.nack, _) => some .refused
  | .owed, (.data _, _) => some .supplied
  | .supplied, (.ack, _) => some .owed
  | .supplied, (.nack, _) => some .refused
  | .refused, (.stop, _) => some .between
  | .refused, (.start, .extMaster) => some .started
  | _, _ => none

/-- The grammar read over a run of symbols. -/
def BusPos.readAll : BusPos → List (Sym × Driver) → Option BusPos
  | p, [] => some p
  | p, x :: rest =>
    match p.read x with
    | some q => BusPos.readAll q rest
    | none => none

/-- The position a bus phase stands for (the table of R281); B_HUNG stands for none and is read as between transactions. -/
def Bus.pos (b : Bus) : BusPos :=
  match b.phase with
  | .idle => .between
  | .addr => .addressed b.rw
  | .wIdle => .writing
  | .wAckwait => .written
  | .rDatawait => .owed
  | .rAckwait => .supplied
  | .ended => .refused
  | .hung => .between

/-- The bus symbols among records, in order (R36). -/
def symsOf : List Rec → List (Sym × Driver)
  | [] => []
  | .sym x d :: rest => (x, d) :: symsOf rest
  | .op _ _ _ :: rest => symsOf rest
  | .dma _ _ _ _ _ :: rest => symsOf rest
  | .fault _ :: rest => symsOf rest

/-- The stall table: which turns may move the bus from here (R299). A host turn stands for S.SERVICE. -/
def Bus.owes (b : Bus) (turn : Turn) : Bool :=
  match b.phase, turn with
  | .idle, .mfu (.start _ _) => true
  | .idle, .env (.xmStart _ _ _) => true
  | .addr, .host _ => decide (b.tgt = .ownSlv)
  | .addr, .env (.xsAddr _) => decide (b.tgt = .extSlv)
  | .addr, .bus => decide (b.tgt = .none)
  | .wIdle, .mfu (.wdrive _) => decide (b.init = .own)
  | .wIdle, .mfu .wdone => decide (b.init = .own)
  | .wIdle, .mfu .dabort => decide (b.init = .own)
  | .wIdle, .env (.xmWdata _) => decide (b.init = .ext)
  | .wIdle, .env .xmStop => decide (b.init = .ext)
  | .wIdle, .env (.xmRestart _ _ _) => decide (b.init = .ext)
  | .wAckwait, .host _ => decide (b.tgt = .ownSlv)
  | .wAckwait, .env (.xsWdata _) => decide (b.tgt = .extSlv)
  | .rDatawait, .host _ => decide (b.tgt = .ownSlv)
  | .rDatawait, .env (.xsRdata _) => decide (b.tgt = .extSlv)
  | .rAckwait, .mfu .rrespond => decide (b.init = .own)
  | .rAckwait, .mfu .dabort => decide (b.init = .own)
  | .rAckwait, .env (.xmRresp _) => decide (b.init = .ext)
  | .ended, .mfu .nack => decide (b.init = .own)
  | .ended, .env .xmStop => decide (b.init = .ext)
  | .ended, .env (.xmRestart _ _ _) => decide (b.init = .ext)
  | _, _ => false

/-- A bus-moving turn that is not the host's: the hardware agents and the environment (R299). -/
def Turn.isHardware : Turn → Bool
  | .seq _ => true
  | .mfu _ => true
  | .bus => true
  | .env _ => true
  | .host _ => false
  | .reset => false
  | .outside _ => false

/-! ## Runs, environment and fairness premises (R296, R373, R377) -/

/-- An infinite sequence of steps: at each moment some party takes its turn, and every step has a next state. The host may go on
issuing for ever, since a turn can give a context its next packet (R377; log entry 3). -/
def IsRun (turns : Nat → Turn) (states : Nat → State) : Prop :=
  ∀ n, takeTurn (turns n) (states n) = .next (states (n + 1))

/-- An infinite run: "a finite or infinite sequence of steps starting with RESET" (R377). -/
def IsRunFromReset (turns : Nat → Turn) (states : Nat → State) : Prop :=
  IsRun turns states ∧ ∃ s0, takeTurn .reset s0 = .next (states 0)

/-- The final state of a finite run: reached from a RESET step, and over (R377). A run with a refusal or a fault has none. -/
def IsFinalState (t : State) : Prop := ∃ (s0 : State) (turns : List Turn), takeTurns (.reset :: turns) s0 = some t ∧ RunOver t

/-- ENV_QUIET (R296): no external master ever starts, and none wins an arbitration. -/
def EnvQuiet (turns : Nat → Turn) (states : Nat → State) : Prop :=
  ∀ n, (∀ a7 rw present, turns n ≠ .env (.xmStart a7 rw present)) ∧ (states n).par.multiMaster = false

/-- ENV_NO_XSLAVE (R296): no external slave is present at any address. -/
def EnvNoXslave (turns : Nat → Turn) : Prop :=
  ∀ n, (∀ arb, turns n ≠ .mfu (.start arb true)) ∧ (∀ a7 rw, turns n ≠ .env (.xmStart a7 rw true)) ∧
    (∀ a7 rw, turns n ≠ .env (.xmRestart a7 rw true))

/-- FAIR_HW (R373): a hardware step of SEQ, MFU or BUS that stays enabled is eventually taken. An MFU turn counts only if its
step is enabled, since one that is not passes; SEQ and BUS have one step each, enabled throughout. Log entry 15. -/
def FairHw (turns : Nat → Turn) (states : Nat → State) : Prop :=
  (∀ c n, (∀ m, n ≤ m → Turn.enabled (.seq c) (states m) = true) → ∃ m, n ≤ m ∧ turns m = .seq c) ∧
  (∀ n, (∀ m, n ≤ m → ∃ q, Turn.enabled (.mfu q) (states m) = true) → ∃ m q, n ≤ m ∧ turns m = .mfu q ∧
    Turn.enabled (.mfu q) (states m) = true) ∧
  (∀ n, (∀ m, n ≤ m → Turn.enabled .bus (states m) = true) → ∃ m, n ≤ m ∧ turns m = .bus)

/-- FAIR_INT (R373): while `s_irq` = 1 the host eventually runs S.SERVICE; a turn of INT that is blocked runs none. -/
def FairInt (turns : Nat → Turn) (states : Nat → State) : Prop :=
  ∀ n, (states n).sIrq = true → ∃ m, n ≤ m ∧ ((states m).sIrq = false ∨
    ∃ p rest, turns m = .host .int ∧ (states m).int.hold = none ∧ (states m).int.prog = p :: rest ∧
      decode p = some .sService)

/-- The host goes on polling: a context that may run and whose hold stays lifted is eventually given the turn, and so its WAIT
returns. R373 does not name this premise, but its "every CH.WAIT and M.WAIT returns" needs it, since "a host that stops
polling" is allowed (R374). DEDUCED (log entry 15). -/
def FairHost (turns : Nat → Turn) (states : Nat → State) : Prop :=
  ∀ x n, (∀ m, n ≤ m → ctxRuns x (states m) = true ∧
    ∃ h, ((states m).ctx x).hold = some h ∧ (states m).holdLifted h = true) → ∃ m, n ≤ m ∧ turns m = .host x

/-- The steps of R289 to R291 and R293 to R295, the answers the bus waits for. -/
def EnvStep.isAnswer : EnvStep → Bool
  | .xsAddr _ => true
  | .xsWdata _ => true
  | .xsRdata _ => true
  | .xmStart _ _ _ => false
  | .xmWdata _ => true
  | .xmRresp _ => true
  | .xmStop => true
  | .xmRestart _ _ _ => true
  | .timeout => false
  | .slvFault _ => false

/-- ENV_RESPONSIVE (R296, R373): an enabled step of R289 to R291 and R293 to R295 is eventually taken. The spec does not say
whether each step that stays enabled is taken or only some one of those enabled. DESIGN CHOICE (log entry 15): some one, the
weaker premise, so an external master that writes for ever and never ends its transaction meets it; a claim that needs the end
takes a fair external master as well ("ENV_QUIET or a fair external master", R373). -/
def EnvResponsive (turns : Nat → Turn) (states : Nat → State) : Prop :=
  ∀ n, (∀ m, n ≤ m → ∃ e : EnvStep, e.isAnswer = true ∧ envEnabled e (states m) = true) →
    ∃ m, ∃ e : EnvStep, n ≤ m ∧ turns m = .env e ∧ e.isAnswer = true ∧ envEnabled e (states m) = true

end Sys2Proof.Machine
end

