-- ==== Sys2Proof/Certificates/Slice0/Obligations.lean ====
section
/-! DEFINITION. The statements for the provers, in the terms of Safety.lean. Each names what it states; the docstring gives the
rule of spec/ it formalises. Hypotheses are on the state and the operands alone; `Memory.wf`, `SlaveBusOk`, `MasterOk`,
`TableOk` and `IntServesOnly` are invariants of the model, stated as such below. -/

open Sys2Proof Sys2Proof.Machine

/-! ## Encoding -/

/-- R101 to R103, R116: no bit of an encoding is dropped; every well-formed operation comes back from its packet, with every
operand at every value its field admits. -/
def Obligations.DecodeOfEncodeGivesTheInstruction : Prop :=
  ∀ i : Instr, i.wf = true → decode (encode i) = some i

/-- R101 to R103, R112: a packet that decodes is the one packet of its operation, and the operation is well-formed. -/
def Obligations.EncodeOfDecodeGivesThePacket : Prop :=
  ∀ (p : Packet) (i : Instr), decode p = some i → i.wf = true ∧ encode i = p

/-- R112: a packet is legal exactly when its word 0 selects a row of the opcode map under the row's mask and it has the row's
number of operand words; an illegal one is answered ST_ILLEGAL_COMMAND (0x51) with `CH` copied and changes no state, whatever
the clocks. That it leaves an OP record, which carries the packet, is the model's choice (log entry 13). -/
def Obligations.IllegalPacketsAreAnsweredAndChangeNothing : Prop :=
  ∀ (p : Packet) (s : State),
    ((∃ i, decode p = some i) ↔
      ∃ row ∈ opRows, p.word0 &&& row.mask = row.pattern ∧ p.operands.length = row.operands) ∧
    (decode p = none →
      issue p s = .next { s with trace := s.trace ++ [Rec.op s.cur (.illegal p) (reply (chField p.word0) 0 0x51)] })

/-- R118: the ten example packets decode to the operations they stand for. -/
def Obligations.ExamplePacketsDecodeAsTheSpecSays : Prop :=
  decode ⟨0x01000000#32, [0x10000200#32]⟩ = some (.dmaEnable 0x10000200#32) ∧
  decode ⟨0x02030000#32, []⟩ = some (.chTake 3) ∧
  decode ⟨0x03020032#32, [0x10001000#32, 0x00000010#32, 0x10002000#32, 0x00000010#32, 0x00000004#32]⟩ =
    some (.chArm 2 ⟨2, true, true, 0, 0x10001000#32, 16, 0x10002000#32, 16, 4⟩) ∧
  decode ⟨0x04020000#32, []⟩ = some (.chWait 2) ∧
  decode ⟨0x10000024#32, [0x10000400#32, 0x00000001#32]⟩ = some (.mWriteAll 0x24 0x10000400#32 1 0) ∧
  decode ⟨0x11000024#32, [0x10000404#32, 0x00000001#32]⟩ = some (.mReadAll 0x24 0x10000404#32 1 0) ∧
  decode ⟨0x12000000#32, []⟩ = some .mStart ∧
  decode ⟨0x13000000#32, []⟩ = some .mWait ∧
  decode ⟨0x20000024#32, []⟩ = some (.sEnable 0x24) ∧
  decode ⟨0x21000000#32, []⟩ = some .sService

/-! ## Issuing, inputs, reset -/

/-- R20, R100: when a host context has the turn, is not blocked and may run, the step issues its next packet: a legal one is
executed, in that context, on the state with the turn and the packet consumed; an illegal one is answered. A packet placed by
`withFetchWord` is the one issued next. A turn in which the host's program goes on gives a context one more packet and changes
nothing else. That packets and turns are lists in the state is the model's choice (log entry 3). -/
def Obligations.StepIssuesTheNextPacketOfTheScheduledContext : Prop :=
  (∀ (s : State) (c : Ctx) (turns : List Turn) (p : Packet) (rest : List Packet),
    s.sched = .host c :: turns → (c = .fg → s.int.hold = none) → s.ctx c = ⟨p :: rest, none⟩ →
    let s0 := ((s.setSched turns).setCtx c ⟨rest, none⟩).setCur c
    (∀ i, decode p = some i → step s = exec i s0) ∧ (decode p = none → step s = answerIllegal p s0)) ∧
  (∀ (s : State) (nbits w : Nat) (i : Instr), decodeTableWord nbits w = some i →
    step (s.withFetchWord nbits w) =
      exec i { s with fg := ⟨s.fg.prog, none⟩, int := { s.int with hold := none }, cur := .fg }) ∧
  (∀ (s : State) (c : Ctx) (p : Packet), ∃ t, takeTurn (.outside (.append c p)) s = .next t ∧
    t.ctx c = ⟨(s.ctx c).prog ++ [p], (s.ctx c).hold⟩ ∧ (∀ d, d ≠ c → t.ctx d = s.ctx d) ∧
    t = { s with fg := t.fg, int := t.int })

/-- R140: a legal operation whose needed input is 0 is refused (REFUSE_CLOCK_OFF), whatever the state; with the inputs at 1 no
operation is refused. DCM operations need `clk_dma`, master operations `clk_i2c` and `clk_dma`, slave operations `clk_i2c`;
M.START and S.ENABLE also need `pins_ok`. The decode check stands before it: an illegal packet is answered even so; the OP record
of its answer is the model's choice (log entry 13). -/
def Obligations.OperationsAreRefusedExactlyWhenAnInputIsOff : Prop :=
  (∀ (i : Instr) (s : State),
    (exec i s = .refused .clockOff ↔
      ((usesDcm i = true ∨ usesMaster i = true) ∧ s.inp.clkDma = false) ∨
      (usesDcm i = false ∧ s.inp.clkI2c = false) ∨
      ((i = .mStart ∨ ∃ addr, i = .sEnable addr) ∧ s.inp.pinsOk = false)) ∧
    (∀ r, exec i s = .refused r → r = .clockOff)) ∧
  (∀ (p : Packet) (s : State), decode p = none →
    issue p s = .next { s with trace := s.trace ++ [Rec.op s.cur (.illegal p) (reply (chField p.word0) 0 0x51)] })

/-- R360: the RESET step gives every field of R21 to R33 that has one its reset value, and changes neither memory, `haz`,
`trace` nor the inputs. -/
def Obligations.ResetStepGivesTheResetValues : Prop :=
  ∀ s : State, ∃ t, takeTurn .reset s = .next t ∧ ResetValues t ∧ t.mem = s.mem ∧ (∀ a, t.byteAt a = s.byteAt a) ∧
    t.haz = s.haz ∧ t.trace = s.trace ∧ t.inp = s.inp ∧ t.par = s.par ∧ t.nCh = s.nCh

/-! ## The Descriptor/Channel Manager -/

/-- R141: DMA.ENABLE, the checks in their order and the effect. -/
def Obligations.DmaEnableSetsTheTableBaseOnce : Prop :=
  ∀ (base : Word) (s : State), s.inp.clkDma = true →
    (s.dcm.en = true → AnswersOnly (.dmaEnable base) s 0 0x12) ∧
    (s.dcm.en = false →
      (base.toNat % s.par.descAlign ≠ 0 ∨ base.toNat + 16 * s.nCh > 2 ^ 32 ∨
        memAdmit s.par base.toNat (16 * s.nCh) = false) →
      AnswersOnly (.dmaEnable base) s 0 0x14) ∧
    (s.dcm.en = false → base.toNat % s.par.descAlign = 0 → base.toNat + 16 * s.nCh ≤ 2 ^ 32 →
      memAdmit s.par base.toNat (16 * s.nCh) = true →
      exec (.dmaEnable base) s =
        .next { s with dcm := ⟨true, base⟩, trace := s.trace ++ [opRec (.dmaEnable base) s (reply 0 0 0x00)] })

/-- R142: CH.TAKE, the checks in their order and the effect. -/
def Obligations.ChTakeGrantsAFreeChannelOnce : Prop :=
  ∀ (c : ChIdx) (s : State), s.inp.clkDma = true →
    (s.dcm.en = false → AnswersOnly (.chTake c) s c 0x50) ∧
    (s.dcm.en = true → s.nCh ≤ c.toNat → AnswersOnly (.chTake c) s c 0x13) ∧
    (s.dcm.en = true → c.toNat < s.nCh → (s.ch c).own ≠ .free → AnswersOnly (.chTake c) s c 0x40) ∧
    (s.dcm.en = true → c.toNat < s.nCh → (s.ch c).own = .free →
      ∃ t, exec (.chTake c) s = .next t ∧ t.ch c = { s.ch c with own := .held } ∧ OtherChansKept s t c ∧ t.nCh = s.nCh ∧
        t = { s with chans := t.chans, trace := s.trace ++ [opRec (.chTake c) s (reply c 0 0x00)] })

/-- R142, R154: "For all distinct channel indices, concurrently taking both succeeds": two distinct free channels are granted
in either order, with the same channel registers afterwards, and their rows have no byte in common. -/
def Obligations.TakingTwoDistinctChannelsSucceedsInEitherOrder : Prop :=
  ∀ (c d : ChIdx) (s : State), c ≠ d → s.inp.clkDma = true → s.dcm.en = true → c.toNat < s.nCh → d.toNat < s.nCh →
    (s.ch c).own = .free → (s.ch d).own = .free →
    (∃ t1 t2 u1 u2, exec (.chTake c) s = .next t1 ∧ exec (.chTake d) t1 = .next t2 ∧
      exec (.chTake d) s = .next u1 ∧ exec (.chTake c) u1 = .next u2 ∧
      (t2.ch c).own = .held ∧ (t2.ch d).own = .held ∧ t2.chans = u2.chans ∧
      t2.trace = s.trace ++ [opRec (.chTake c) s (reply c 0 0x00), opRec (.chTake d) s (reply d 0 0x00)]) ∧
    (s.rowAddr c + 16 ≤ s.rowAddr d ∨ s.rowAddr d + 16 ≤ s.rowAddr c)

/-- R143: `ValidTransfer` is its seven conditions. -/
def Obligations.ValidTransferIsItsSevenConditions : Prop :=
  ∀ (p : Params) (t : Transfer) (allowPort : Bool),
    let w := 2 ^ t.width
    let spanS := if t.srcInc = true then t.count.toNat * w else w
    let spanD := if t.dstInc = true then t.count.toNat * w else w
    validTransfer p t allowPort = true ↔
      (t.width = 0 ∨ t.width = 1 ∨ t.width = 2) ∧
      (1 ≤ t.count.toNat ∧ t.count.toNat ≤ 1024) ∧
      (allowPort = false → t.trig = 0) ∧
      (t.src.toNat % w = 0 ∧ t.dst.toNat % w = 0) ∧
      (spanS ≤ t.srcLen.toNat ∧ spanD ≤ t.dstLen.toNat) ∧
      (t.src.toNat + spanS ≤ 2 ^ 32 ∧ t.dst.toNat + spanD ≤ 2 ^ 32) ∧
      (allowPort = false →
        ¬ (t.src.toNat ≤ p.aMstdat.toNat ∧ p.aMstdat.toNat < t.src.toNat + spanS) ∧
        ¬ (t.dst.toNat ≤ p.aMstdat.toNat ∧ p.aMstdat.toNat < t.dst.toNat + spanD))

/-- R145, R144: CH.ARM, the checks in their order; for a valid Transfer the four words of the row at `desc_base + 16 * c`, the
channel registers, and nothing else but the hazard record: every byte outside the row reads as before. -/
def Obligations.ChArmBuildsTheRowAndArmsTheChannel : Prop :=
  ∀ (c : ChIdx) (x : Transfer) (s : State), s.inp.clkDma = true → TableOk s → Memory.wf s.mem →
    (s.dcm.en = false → AnswersOnly (.chArm c x) s c 0x50) ∧
    (s.dcm.en = true → s.nCh ≤ c.toNat → AnswersOnly (.chArm c x) s c 0x13) ∧
    (s.dcm.en = true → c.toNat < s.nCh → (s.ch c).own ≠ .held → AnswersOnly (.chArm c x) s c 0x50) ∧
    (s.dcm.en = true → c.toNat < s.nCh → (s.ch c).own = .held → validTransfer s.par x false = false →
      AnswersOnly (.chArm c x) s c 0x11) ∧
    (s.dcm.en = true → c.toNat < s.nCh → (s.ch c).own = .held → validTransfer s.par x false = true →
      let row := s.dcm.base.toNat + 16 * c.toNat
      let w := BitVec.ofNat 32 (2 ^ x.width)
      let inc := fun b : Bool => if b = true then 1#32 else 0#32
      ∃ t, exec (.chArm c x) s = .next t ∧
        t.memRead row 4 =
          1#32 ||| (BitVec.ofNat 32 x.width <<< 8) ||| (inc x.srcInc <<< 12) ||| (inc x.dstInc <<< 14) |||
            ((x.count - 1#32) <<< 16) ∧
        t.memRead (row + 4) 4 = x.src + (x.count - 1#32) * w * inc x.srcInc ∧
        t.memRead (row + 8) 4 = x.dst + (x.count - 1#32) * w * inc x.dstInc ∧
        t.memRead (row + 12) 4 = 0#32 ∧
        BytesKeptOutside s t row 16 ∧
        t.ch c = { own := .xfer, enabled := true, trig := .sw, active := true, err := .none,
                   rem := BitVec.ofNat 11 x.count.toNat,
                   src := ⟨x.src, BitVec.ofNat 32 (srcSpan x)⟩, dst := ⟨x.dst, BitVec.ofNat 32 (dstSpan x)⟩ } ∧
        OtherChansKept s t c ∧ t.nCh = s.nCh ∧
        t = { s with mem := t.mem, chans := t.chans, haz := t.haz,
                     trace := s.trace ++ [opRec (.chArm c x) s (reply c 0 0x00)] })

/-- R107 to R109, R149: "A row the builder wrote is always well-formed": what the sequencer fetches from the row of a valid
Transfer is the Transfer's width, increments and count, the first element (r = count) is at the start address and the last
(r = 1) at the end address. -/
def Obligations.BuiltRowsAreWellFormedAndSayTheTransfer : Prop :=
  ∀ (p : Params) (x : Transfer) (allowPort : Bool), validTransfer p x allowPort = true →
    let row := rowOf x
    rowWellFormed row = true ∧ cfgWidth row.cfg = x.width ∧ cfgSrcInc row.cfg = x.srcInc ∧ cfgDstInc row.cfg = x.dstInc ∧
    cfgCount row.cfg = x.count.toNat ∧
    (∀ r : Count, 1 ≤ r.toNat → r.toNat ≤ x.count.toNat →
      (elemAddr row.srcEnd r x.width x.srcInc).toNat =
        x.src.toNat + (if x.srcInc = true then (x.count.toNat - r.toNat) * 2 ^ x.width else 0) ∧
      (elemAddr row.dstEnd r x.width x.dstInc).toNat =
        x.dst.toNat + (if x.dstInc = true then (x.count.toNat - r.toNat) * 2 ^ x.width else 0))

/-- R146: CH.WAIT, the checks in their order; while the channel is active without an error the context is blocked in the
operation and nothing else changes; otherwise the handle and the buffers move back, the flags clear, and the error flag is
looked at first. -/
def Obligations.ChWaitReleasesTheChannelOrBlocks : Prop :=
  ∀ (c : ChIdx) (s : State), s.inp.clkDma = true →
    (s.dcm.en = false → AnswersOnly (.chWait c) s c 0x50) ∧
    (s.dcm.en = true → s.nCh ≤ c.toNat → AnswersOnly (.chWait c) s c 0x13) ∧
    (s.dcm.en = true → c.toNat < s.nCh → (s.ch c).own ≠ .xfer → AnswersOnly (.chWait c) s c 0x50) ∧
    (s.dcm.en = true → c.toNat < s.nCh → (s.ch c).own = .xfer → s.me.phase ≠ .idle → s.me.ch = c →
      AnswersOnly (.chWait c) s c 0x50) ∧
    (s.dcm.en = true → c.toNat < s.nCh → (s.ch c).own = .xfer → (s.me.phase = .idle ∨ s.me.ch ≠ c) →
      ((s.ch c).active = true ∧ (s.ch c).err = .none → exec (.chWait c) s = .next (s.setHold s.cur (some (.chWait c)))) ∧
      (¬ ((s.ch c).active = true ∧ (s.ch c).err = .none) →
        ∃ t, exec (.chWait c) s = .next t ∧
          t.ch c = { s.ch c with own := .held, active := false, err := .none, src := .empty, dst := .empty } ∧
          OtherChansKept s t c ∧ t.nCh = s.nCh ∧
          t = { s.setHold s.cur none with
                chans := t.chans
                trace := s.trace ++ [opRec (.chWait c) s (reply c 0
                  (match (s.ch c).err with | .dmaAbort => 0x30 | .periphNack => 0x31 | .none => 0x00))] }))

/-- R10, R146, R204: a context blocked in a WAIT issues nothing; at its turn, while the condition does not hold, nothing changes
but the running context; as soon as it holds the operation ends as its rule says, with the fault or the error flag in its
status, the channel HELD again and, for M.WAIT, the master idle. While INT is blocked FG does not run. That a blocked context looks
at the condition only is the model's reading (log entry 8). On a run on which the host goes on polling (R374; the premise FairHost
is the model's, log entry 15) a WAIT whose condition stays true returns (R373). -/
def Obligations.BlockedWaitsEndWhenTheirConditionHolds : Prop :=
  (∀ (s : State) (x : Ctx) (c : ChIdx), (x = .fg → s.int.hold = none) → c.toNat < s.nCh →
    ((s.ctx x).hold = some (.chWait c) →
      ((s.ch c).active = true ∧ (s.ch c).err = .none → takeTurn (.host x) s = .next { s with cur := x }) ∧
      (¬ ((s.ch c).active = true ∧ (s.ch c).err = .none) →
        ∃ t, takeTurn (.host x) s = .next t ∧ (t.ctx x).hold = none ∧ (t.ctx x).prog = (s.ctx x).prog ∧
          t.ch c = { s.ch c with own := .held, active := false, err := .none, src := .empty, dst := .empty } ∧
          OtherChansKept s t c ∧ t.me = s.me ∧ t.sl = s.sl ∧ t.bus = s.bus ∧ t.mem = s.mem ∧ t.dcm = s.dcm ∧
          t.trace = s.trace ++ [.op x (.op (.chWait c)) (reply c 0
            (match (s.ch c).err with | .dmaAbort => 0x30 | .periphNack => 0x31 | .none => 0x00))])) ∧
    ((s.ctx x).hold = some (.mWait c) →
      (¬ (s.me.phase = .done ∧ (s.ch c).active = false) → takeTurn (.host x) s = .next { s with cur := x }) ∧
      (s.me.phase = .done ∧ (s.ch c).active = false →
        ∃ t, takeTurn (.host x) s = .next t ∧ (t.ctx x).hold = none ∧ (t.ctx x).prog = (s.ctx x).prog ∧
          t.ch c = { s.ch c with own := .held, active := false, err := .none, src := .empty, dst := .empty } ∧
          OtherChansKept s t c ∧ t.me = { s.me with fault := .none, full := false, phase := .idle } ∧
          t.sl = s.sl ∧ t.bus = s.bus ∧ t.mem = s.mem ∧ t.dcm = s.dcm ∧
          t.trace = s.trace ++ [.op x (.op .mWait) (reply c 0
            (match s.me.fault, (s.ch c).err with
             | .nackAddr, _ => 0x20 | .nackData, _ => 0x21 | .arbLost, _ => 0x22 | .busTimeout, _ => 0x23
             | .none, .dmaAbort => 0x30 | .none, _ => 0x00))])) ∧
    (s.int.hold ≠ none → takeTurn (.host .fg) s = .next s)) ∧
  (∀ (turns : Nat → Turn) (states : Nat → State) (x : Ctx) (h : Hold) (n : Nat), IsRun turns states → FairHost turns states →
    ((states n).ctx x).hold = some h →
    (∀ m, n ≤ m → turns m ≠ .reset ∧ (x = .fg → (states m).int.hold = none) ∧
      (((states m).ctx x).hold = some h →
        match h with
        | .chWait c => ¬ (((states m).ch c).active = true ∧ ((states m).ch c).err = .none)
        | .mWait c => (states m).me.phase = .done ∧ ((states m).ch c).active = false)) →
    ∃ m, n ≤ m ∧ turns m = .host x ∧ ((states m).ctx x).hold = some h ∧ ((states (m + 1)).ctx x).hold = none)

/-! ## The Master Engine -/

/-- R191: M.WRITE_ALL, the checks in their order and the effect; zero length is a no-op success. -/
def Obligations.MWriteAllDescribesAWrite : Prop :=
  ∀ (addr : Nat) (ptr len : Word) (c : ChIdx) (s : State), s.inp.clkI2c = true → s.inp.clkDma = true →
    let i := Instr.mWriteAll addr ptr len c
    let bad := len.toNat > 1024 ∨ ptr.toNat + len.toNat > 2 ^ 32 ∨
      (ptr.toNat ≤ s.par.aMstdat.toNat ∧ s.par.aMstdat.toNat < ptr.toNat + len.toNat)
    (addr > 127 → AnswersOnly i s c 0x10) ∧
    (addr ≤ 127 → len = 0 → AnswersOnly i s c 0x00) ∧
    (addr ≤ 127 → len ≠ 0 → s.me.phase ≠ .idle → AnswersOnly i s c 0x50) ∧
    (addr ≤ 127 → len ≠ 0 → s.me.phase = .idle → s.nCh ≤ c.toNat → AnswersOnly i s c 0x13) ∧
    (addr ≤ 127 → len ≠ 0 → s.me.phase = .idle → c.toNat < s.nCh → (s.dcm.en = false ∨ (s.ch c).own ≠ .held) →
      AnswersOnly i s c 0x50) ∧
    (addr ≤ 127 → len ≠ 0 → s.me.phase = .idle → c.toNat < s.nCh → s.dcm.en = true → (s.ch c).own = .held → bad →
      AnswersOnly i s c 0x11) ∧
    (addr ≤ 127 → len ≠ 0 → s.me.phase = .idle → c.toNat < s.nCh → s.dcm.en = true → (s.ch c).own = .held → ¬ bad →
      ∃ t, exec i s = .next t ∧
        t.me = { phase := .pending, dir := .w, addr := BitVec.ofNat 7 addr, ch := c, ptr := ptr,
                 len := BitVec.ofNat 11 len.toNat, k := 0, fault := .none, dat := s.me.dat, full := false } ∧
        t.ch c = { s.ch c with src := ⟨ptr, len⟩, dst := .empty, own := .xfer } ∧ OtherChansKept s t c ∧ t.nCh = s.nCh ∧
        t = { s with me := t.me, chans := t.chans, trace := s.trace ++ [opRec i s (reply c 0 0x00)] })

/-- R192: M.READ_ALL, the checks in their order and the effect; zero length is a no-op success. -/
def Obligations.MReadAllDescribesARead : Prop :=
  ∀ (addr : Nat) (ptr len : Word) (c : ChIdx) (s : State), s.inp.clkI2c = true → s.inp.clkDma = true →
    let i := Instr.mReadAll addr ptr len c
    let bad := len.toNat > 1024 ∨ ptr.toNat + len.toNat > 2 ^ 32 ∨
      (ptr.toNat ≤ s.par.aMstdat.toNat ∧ s.par.aMstdat.toNat < ptr.toNat + len.toNat)
    (addr > 127 → AnswersOnly i s c 0x10) ∧
    (addr ≤ 127 → len = 0 → AnswersOnly i s c 0x00) ∧
    (addr ≤ 127 → len ≠ 0 → s.me.phase ≠ .idle → AnswersOnly i s c 0x50) ∧
    (addr ≤ 127 → len ≠ 0 → s.me.phase = .idle → s.nCh ≤ c.toNat → AnswersOnly i s c 0x13) ∧
    (addr ≤ 127 → len ≠ 0 → s.me.phase = .idle → c.toNat < s.nCh → (s.dcm.en = false ∨ (s.ch c).own ≠ .held) →
      AnswersOnly i s c 0x50) ∧
    (addr ≤ 127 → len ≠ 0 → s.me.phase = .idle → c.toNat < s.nCh → s.dcm.en = true → (s.ch c).own = .held → bad →
      AnswersOnly i s c 0x11) ∧
    (addr ≤ 127 → len ≠ 0 → s.me.phase = .idle → c.toNat < s.nCh → s.dcm.en = true → (s.ch c).own = .held → ¬ bad →
      ∃ t, exec i s = .next t ∧
        t.me = { phase := .pending, dir := .r, addr := BitVec.ofNat 7 addr, ch := c, ptr := ptr,
                 len := BitVec.ofNat 11 len.toNat, k := 0, fault := .none, dat := s.me.dat, full := false } ∧
        t.ch c = { s.ch c with src := .empty, dst := ⟨ptr, len⟩, own := .xfer } ∧ OtherChansKept s t c ∧ t.nCh = s.nCh ∧
        t = { s with me := t.me, chans := t.chans, trace := s.trace ++ [opRec i s (reply c 0 0x00)] })

/-- R194, R193: M.START answers ST_LIFECYCLE unless a transaction is pending; then it writes the four row words of the master
Transfer at `desc_base + 16 * m_ch`, arms the channel and requests the start condition; every byte outside the row reads as
before. -/
def Obligations.MStartBuildsTheMasterRowAndArms : Prop :=
  ∀ s : State, s.inp.clkI2c = true → s.inp.clkDma = true → s.inp.pinsOk = true →
    (s.me.phase ≠ .pending → AnswersOnly .mStart s 0 0x50) ∧
    (s.me.phase = .pending → s.dcm.en = true → TableOk s → s.me.ch.toNat < s.nCh → Memory.wf s.mem →
      let c := s.me.ch
      let row := s.dcm.base.toNat + 16 * c.toNat
      let len := BitVec.ofNat 32 s.me.len.toNat
      let last := s.me.ptr + len - 1#32
      ∃ t, exec .mStart s = .next t ∧
        t.memRead row 4 =
          (match s.me.dir with | .w => 0x00001001#32 | .r => 0x00004001#32) ||| ((len - 1#32) <<< 16) ∧
        t.memRead (row + 4) 4 = (match s.me.dir with | .w => last | .r => s.par.aMstdat) ∧
        t.memRead (row + 8) 4 = (match s.me.dir with | .w => s.par.aMstdat | .r => last) ∧
        t.memRead (row + 12) 4 = 0#32 ∧
        BytesKeptOutside s t row 16 ∧
        t.ch c = { s.ch c with trig := .i2cMst, enabled := true, err := .none, rem := s.me.len, active := true } ∧
        OtherChansKept s t c ∧ t.nCh = s.nCh ∧
        t = { s with mem := t.mem, chans := t.chans, haz := t.haz, me := { s.me with phase := .start },
                     trace := s.trace ++ [opRec .mStart s (reply 0 0 0x00)] })

/-- R204, R205: M.WAIT answers ST_LIFECYCLE when nothing was started; until the bus part is over and the channel is stopped it
blocks and nothing else changes; then the channel and the buffer move back, the master is idle, and the status names the fault:
a BusFault before ST_DMA_ABORT before ST_OK. The response carries `m_ch`. -/
def Obligations.MWaitReleasesTheMasterOrBlocks : Prop :=
  ∀ s : State, s.inp.clkI2c = true → s.inp.clkDma = true →
    ((s.me.phase = .idle ∨ s.me.phase = .pending) → AnswersOnly .mWait s 0 0x50) ∧
    (s.me.phase ≠ .idle → s.me.phase ≠ .pending → s.me.ch.toNat < s.nCh →
      let c := s.me.ch
      (¬ (s.me.phase = .done ∧ (s.ch c).active = false) → exec .mWait s = .next (s.setHold s.cur (some (.mWait c)))) ∧
      (s.me.phase = .done ∧ (s.ch c).active = false →
        ∃ t, exec .mWait s = .next t ∧
          t.ch c = { s.ch c with own := .held, active := false, err := .none, src := .empty, dst := .empty } ∧
          OtherChansKept s t c ∧ t.nCh = s.nCh ∧
          t = { s.setHold s.cur none with
                chans := t.chans
                me := { s.me with fault := .none, full := false, phase := .idle }
                trace := s.trace ++ [opRec .mWait s (reply c 0
                  (match s.me.fault, (s.ch c).err with
                   | .nackAddr, _ => 0x20 | .nackData, _ => 0x21 | .arbLost, _ => 0x22 | .busTimeout, _ => 0x23
                   | .none, .dmaAbort => 0x30 | .none, _ => 0x00))] }))

/-! ## The Slave Protocol State Machine -/

/-- R241: S.ENABLE, the checks in their order (the address first) and the effect. -/
def Obligations.SEnableSetsTheOwnAddressOnce : Prop :=
  ∀ (addr : Nat) (s : State), s.inp.clkI2c = true → s.inp.pinsOk = true →
    (addr > 127 → AnswersOnly (.sEnable addr) s 0 0x10) ∧
    (addr ≤ 127 → s.sl.en = true → AnswersOnly (.sEnable addr) s 0 0x12) ∧
    (addr ≤ 127 → s.sl.en = false →
      exec (.sEnable addr) s =
        .next { s with sl := { s.sl with addr := BitVec.ofNat 7 addr, en := true },
                       trace := s.trace ++ [opRec (.sEnable addr) s (reply 0 0 0x00)] })

/-- R243, R242: with no event pending, or the slave not enabled, S.SERVICE answers ST_WOULD_BLOCK with the session state in
`INFO` and nothing changes but the OP record. -/
def Obligations.ServiceWithoutAnEventChangesNothing : Prop :=
  ∀ s : State, s.inp.clkI2c = true → s.sl.fatal = false → (s.sl.en = false ∨ s.sl.pend = evNone) →
    exec .sService s =
      .next { s with trace := s.trace ++ [opRec .sService s (reply 0 (32 * s.sl.state.code.toNat) 0x01)] }

/-- R244, R284: an address match is acknowledged from every session state but Fault; the bus moves on by the direction, the own
master's address phase ends, and in a read the byte request is latched at once. The kept byte is not touched. -/
def Obligations.ServiceAcknowledgesAnAddressMatch : Prop :=
  ∀ s : State, s.inp.clkI2c = true → s.sl.fatal = false → s.sl.en = true → s.sl.pend = evAddrMatch →
    let moves := s.bus.phase = .addr
    ∃ t, exec .sService s = .next t ∧
      t.sl = { s.sl with
               state := .addressMatched
               pend := if moves ∧ s.bus.rw = .r ∧ s.bus.tgt = .ownSlv then evTxReady else evNone } ∧
      t.bus = { s.bus with
                phase := if moves then (match s.bus.rw with | .w => .wIdle | .r => .rDatawait) else s.bus.phase } ∧
      t.me = { s.me with phase := if moves ∧ s.bus.init = .own then .data else s.me.phase } ∧
      t = { s with sl := t.sl, bus := t.bus, me := t.me,
                   trace := s.trace ++ [.sym .ack .ownSlave, opRec .sService s (reply 0 0x21 0x00)] }

/-- R245: a received byte is stored, overwriting the kept one, and acknowledged; the bus returns to between bytes. -/
def Obligations.ServiceStoresAReceivedByte : Prop :=
  ∀ s : State, s.inp.clkI2c = true → s.sl.fatal = false → s.sl.en = true → s.sl.pend = evRxReady →
    exec .sService s =
      .next { s with
              sl := { s.sl with last := s.sl.rxdat, lastValid := true, state := .receivingByte, pend := evNone }
              bus := { s.bus with phase := if s.bus.phase = .wAckwait then .wIdle else s.bus.phase }
              trace := s.trace ++ [.sym .ack .ownSlave, opRec .sService s (reply 0 0x42 0x00)] }

/-- R246, R248, R287: a requested byte is the kept byte doubled mod 256; it goes on the bus when the bus waits for it, and into
the own master's data register when the own master reads. The kept byte stays. -/
def Obligations.ServiceSuppliesTheDoubledByte : Prop :=
  ∀ s : State, s.inp.clkI2c = true → s.sl.fatal = false → s.sl.en = true → s.sl.pend = evTxReady → s.sl.lastValid = true →
    let b := BitVec.ofNat 8 (2 * s.sl.last.toNat)
    let moves := s.bus.phase = .rDatawait
    ∃ t, exec .sService s = .next t ∧
      t.sl = { s.sl with txdat := b, state := .transmittingByte, pend := evNone } ∧
      t.bus = (if moves then { s.bus with phase := .rAckwait, byte := b } else s.bus) ∧
      t.me = (if moves ∧ s.bus.init = .own then { s.me with dat := b, full := true } else s.me) ∧
      t = { s with sl := t.sl, bus := t.bus, me := t.me,
                   trace := s.trace ++ (if moves then [.sym (.data b) .ownSlave] else []) ++
                     [opRec .sService s (reply 0 0x63 0x00)] }

/-- R247: a requested byte that was never received: the session moves to TransmittingByte, `s_txdat` is not written and UNDERRUN
is answered. Under STALL the event stays pending and the bus does not move; under DRAW some byte, under no law, goes on the bus
and the event is cleared. -/
def Obligations.ServiceReportsAnUnderrun : Prop :=
  ∀ s : State, s.inp.clkI2c = true → s.sl.fatal = false → s.sl.en = true → s.sl.pend = evTxReady → s.sl.lastValid = false →
    let answered := opRec .sService s (reply 0 0x73 0x00)
    (s.par.txUnderrun = .stall →
      exec .sService s =
        .next { s with sl := { s.sl with state := .transmittingByte }, trace := s.trace ++ [answered] }) ∧
    (s.par.txUnderrun = .draw → s.bus.phase = .rDatawait →
      ∃ (b : Byte) (t : State), exec .sService s = .next t ∧
        t.sl = { s.sl with state := .transmittingByte, pend := evNone } ∧
        t.bus = { s.bus with phase := .rAckwait, byte := b } ∧
        t.me = (if s.bus.init = .own then { s.me with dat := b, full := true } else s.me) ∧
        t = { s with sl := t.sl, bus := t.bus, me := t.me, draws := t.draws,
                     trace := s.trace ++ [.sym (.data b) .ownSlave, answered] }) ∧
    (s.par.txUnderrun = .draw → s.bus.phase ≠ .rDatawait →
      ∃ t : State, exec .sService s = .next t ∧
        t = { s with sl := { s.sl with state := .transmittingByte, pend := evNone }, draws := t.draws,
                     trace := s.trace ++ [answered] })

/-- R249: every code of 4 or more takes the slave to Fault with that code; the indicator is not cleared, nothing is
acknowledged, no data register is accessed and the bus is not touched. -/
def Obligations.ServiceTurnsAFaultCodeIntoFault : Prop :=
  ∀ s : State, s.inp.clkI2c = true → s.sl.fatal = false → s.sl.en = true → 4 ≤ s.sl.pend.toNat →
    exec .sService s =
      .next { s with
              sl := { s.sl with state := .fault, fatal := true, faultCode := s.sl.pend }
              trace := s.trace ++ [opRec .sService s (reply 0 (0xE0 + s.sl.pend.toNat) 0xF0)] }

/-- R252: the session state after S.SERVICE is the function of the code read that the table gives, from every state but Fault,
which stays; and S.SERVICE is the only operation that changes it. -/
def Obligations.SessionStateFollowsTheTransitionTable : Prop :=
  ∀ s t : State,
    (exec .sService s = .next t →
      t.sl.state =
        if s.sl.fatal = true then s.sl.state
        else if s.sl.en = false ∨ s.sl.pend = 0#4 then s.sl.state
        else if s.sl.pend = 1#4 then .addressMatched
        else if s.sl.pend = 2#4 then .receivingByte
        else if s.sl.pend = 3#4 then .transmittingByte
        else .fault) ∧
    (∀ i, i ≠ .sService → exec i s = .next t → t.sl.state = s.sl.state ∧ t.sl.last = s.sl.last ∧ t.sl.lastValid = s.sl.lastValid)

/-- R250: in Fault every S.SERVICE answers ST_FATAL with the surfaced code and changes nothing, `SlaveLatch` latches nothing,
`s_irq` is 0, only reset leaves Fault, and a bus that waits for the own slave stays where it is (but for a bus timeout). -/
def Obligations.SlaveFaultIsAbsorbing : Prop :=
  ∀ s : State, s.sl.fatal = true →
    (s.inp.clkI2c = true →
      exec .sService s =
        .next { s with trace := s.trace ++ [opRec .sService s (reply 0 (0xE0 + s.sl.faultCode.toNat) 0xF0)] }) ∧
    (∀ ev, slaveLatch ev s = s) ∧ s.sIrq = false ∧
    (∀ (turn : Turn) (t : State), turn ≠ .reset → takeTurn turn s = .next t →
      t.sl.fatal = true ∧ t.sl.state = s.sl.state ∧ t.sl.faultCode = s.sl.faultCode ∧
      (turn ≠ .env .timeout → s.bus.tgt = .ownSlv →
        (s.bus.phase = .addr ∨ s.bus.phase = .wAckwait ∨ s.bus.phase = .rDatawait) → t.bus = s.bus))

/-! ## All operations together -/

/-- R10, R104, R140, R329: with its inputs at 1 every operation has a next state, in every state that meets the invariants of
the master, the channels and the table. -/
def Obligations.EveryOperationHasANextState : Prop :=
  ∀ (i : Instr) (s : State), InputsOn s → MasterOk s → TableOk s → ∃ t, exec i s = .next t

/-- R104, R321: the response of an operation that ends: bits 31:24 are 0; `STATUS` is one of those R321 lists for the operation;
`INFO` is 0 but for S.SERVICE, where it is the code read, UNDERRUN and the new session state; `CH` is the command's, and for
M.WAIT the channel handed back, 0 with ST_LIFECYCLE. The OP record is the last record. Only a CH.WAIT or M.WAIT that leaves its
context blocked records nothing, and it changes nothing else. -/
def Obligations.ResponsesAreThoseTheSpecLists : Prop :=
  ∀ (i : Instr) (s t : State), exec i s = .next t →
    (∃ c, i = .chWait c ∧ t = s.setHold s.cur (some (.chWait c))) ∨
    (i = .mWait ∧ t = s.setHold s.cur (some (.mWait s.me.ch))) ∨
    ∃ (before : List Rec) (c : ChIdx) (info status : Nat),
      t.trace = s.trace ++ before ++ [opRec i s (reply c info status)] ∧
      status ∈ (match i with
        | .dmaEnable _ => [0x12, 0x14, 0x00]
        | .chTake _ => [0x50, 0x13, 0x40, 0x00]
        | .chArm _ _ => [0x50, 0x13, 0x11, 0x00]
        | .chWait _ => [0x50, 0x13, 0x30, 0x31, 0x00]
        | .mWriteAll _ _ _ _ | .mReadAll _ _ _ _ => [0x10, 0x00, 0x50, 0x13, 0x11]
        | .mStart => [0x50, 0x00]
        | .mWait => [0x50, 0x20, 0x21, 0x22, 0x23, 0x30, 0x00]
        | .sEnable _ => [0x10, 0x12, 0x00]
        | .sService => [0xF0, 0x01, 0x00]) ∧
      c = (if i = .mWait ∧ status ≠ 0x50 then s.me.ch else i.chField) ∧
      info = (if i = .sService then
          (if s.sl.fatal = true then s.sl.faultCode.toNat else if s.sl.en = true then s.sl.pend.toNat else 0) +
          (if s.sl.fatal = false ∧ s.sl.en = true ∧ s.sl.pend = evTxReady ∧ s.sl.lastValid = false then 16 else 0) +
          32 * (if s.sl.fatal = true then 7 else t.sl.state.code.toNat)
        else 0)

/-- R322, R327, R329: an operation that answers with a ConfigurationError, ST_CH_ALREADY_TAKEN or ST_LIFECYCLE has changed
nothing: no register, no memory byte, no bus symbol, no record but its OP record. -/
def Obligations.ErrorAnswersChangeNothing : Prop :=
  ∀ (i : Instr) (s t : State) (c : ChIdx) (before : List Rec) (status : Nat), exec i s = .next t →
    status ∈ [0x10, 0x11, 0x12, 0x13, 0x14, 0x40, 0x50] →
    t.trace = s.trace ++ before ++ [opRec i s (reply c 0 status)] →
    OnlyAnswered s t i (reply c 0 status)

/-- R38, R70, R144: the frame of every operation in memory. An operation stores only into the row it builds, the 16 bytes at the
address the builder uses for that channel; one that builds no row leaves every byte as it was; none touches the parameters,
the inputs, the schedule or the packets still to issue. The hazard record changes only when CH.ARM or M.START arms a channel
whose destination shares a byte with that of another armed channel (R367: "two armed channels with overlapping destinations";
that armed means an active flag of 1 at the arming step is the model's reading, log entry 9). -/
def Obligations.OperationsStoreOnlyIntoTheRowTheyBuild : Prop :=
  ∀ (i : Instr) (s t : State), exec i s = .next t →
    SurroundingsKept s t ∧
    (∀ c, rowBuilt i s = some c → BytesKeptOutside s t (s.rowAddr c) 16) ∧
    (rowBuilt i s = none → BytesKept s t) ∧
    t.haz.descWrite = s.haz.descWrite ∧
    (t.haz.bufferAlias = true ↔ s.haz.bufferAlias = true ∨
      ∃ c, rowBuilt i s = some c ∧ t.trace = s.trace ++ [opRec i s (reply i.chField 0 0x00)] ∧
        ∃ (k : Nat) (x : Chan), s.chans[k]? = some x ∧ k ≠ c.toNat ∧ x.active = true ∧
          SharesByte (t.ch c).dst.start.toNat (t.ch c).dst.len.toNat x.dst)

/-- R20, R38: the frame of every operation in the registers. Only DMA.ENABLE writes `dma_en` and `desc_base`; an operation
writes the registers of no channel but its own; DCM operations leave the master, the slave and the bus alone, master
operations the slave and the bus; S.ENABLE writes only `s_en` and `s_addr`; S.SERVICE writes no channel register, neither
`s_en`, `s_addr`, `s_rxdat` nor `s_sel`, and of the master only `m_phase`, `m_dat` and `m_dat_full`. -/
def Obligations.OperationsWriteOnlyTheRegistersOfTheirRule : Prop :=
  ∀ (i : Instr) (s t : State), exec i s = .next t →
    ((∀ base, i ≠ .dmaEnable base) → t.dcm = s.dcm) ∧
    (∀ c, channelWritten i s ≠ some c → t.ch c = s.ch c) ∧
    (usesDcm i = true → t.me = s.me ∧ t.sl = s.sl ∧ t.bus = s.bus) ∧
    (usesMaster i = true → t.sl = s.sl ∧ t.bus = s.bus ∧ t.me.dat = s.me.dat) ∧
    (∀ addr, i = .sEnable addr → t.me = s.me ∧ t.bus = s.bus ∧ t.sl = { s.sl with addr := t.sl.addr, en := t.sl.en }) ∧
    (i = .sService → t.chans = s.chans ∧ t.me = { s.me with phase := t.me.phase, dat := t.me.dat, full := t.me.full } ∧
      t.bus = { s.bus with phase := t.bus.phase, byte := t.bus.byte } ∧
      t.sl = { t.sl with en := s.sl.en, addr := s.sl.addr, rxdat := s.sl.rxdat, sel := s.sl.sel }) ∧
    (i ≠ .sService → t.draws = s.draws)

/-- R158, R23: the ownership of a channel moves only along the table, under the table's conditions: FREE to HELD by CH.TAKE, HELD
to XFER by CH.ARM of a valid Transfer or by M.WRITE_ALL or M.READ_ALL of a positive length with the master idle, XFER to HELD by
CH.WAIT on a channel that is not the master's or by M.WAIT for the master's, when the hold is lifted. A turn of the host moves it
only by issuing such an operation or by ending a WAIT it is blocked in; no agent and no outside party moves it, and nothing but
reset frees it. -/
def Obligations.OwnershipMovesOnlyAlongTheTable : Prop :=
  (∀ (i : Instr) (s t : State) (c : ChIdx), MasterOk s → exec i s = .next t → (t.ch c).own ≠ (s.ch c).own →
    OwnershipRow i s c (s.ch c).own (t.ch c).own) ∧
  (∀ (x : Ctx) (s t : State) (c : ChIdx), MasterOk s → IntServesOnly s → takeTurn (.host x) s = .next t →
    (t.ch c).own ≠ (s.ch c).own →
    ((s.ctx x).hold = some (.chWait c) ∧ OwnershipRow (.chWait c) s c (s.ch c).own (t.ch c).own) ∨
    ((s.ctx x).hold = some (.mWait c) ∧ OwnershipRow .mWait s c (s.ch c).own (t.ch c).own) ∨
    ((s.ctx x).hold = none ∧ ∃ p rest i, (s.ctx x).prog = p :: rest ∧ decode p = some i ∧
      OwnershipRow i s c (s.ch c).own (t.ch c).own)) ∧
  (∀ (turn : Turn) (s t : State) (c : ChIdx), MasterOk s → IntServesOnly s → turn ≠ .reset → takeTurn turn s = .next t →
    ((t.ch c).own = .free → (s.ch c).own = .free) ∧
    ((∀ x, turn ≠ .host x) → (t.ch c).own = (s.ch c).own))

/-- R155, R240, R253, R361: nothing but reset disables the engine or the slave, changes the table base or the own address, clears
a channel's enabled flag, leaves the slave's Fault, takes the session back to Idle or makes the kept byte invalid; and no step
but S.SERVICE moves the session state or the kept byte. -/
def Obligations.OnlyResetUndoesAnEnableOrReturnsToIdle : Prop :=
  ∀ (turn : Turn) (s t : State), turn ≠ .reset → takeTurn turn s = .next t →
    (s.dcm.en = true → t.dcm = s.dcm) ∧
    (s.sl.en = true → t.sl.en = true ∧ t.sl.addr = s.sl.addr) ∧
    (∀ c, (s.ch c).enabled = true → (t.ch c).enabled = true) ∧
    (s.sl.fatal = true → t.sl.fatal = true) ∧
    (s.sl.state ≠ .idle → t.sl.state ≠ .idle) ∧ (s.sl.lastValid = true → t.sl.lastValid = true) ∧
    ((∀ x p rest, turn = .host x → (s.ctx x).hold = none → (s.ctx x).prog = p :: rest → decode p ≠ some .sService) →
      t.sl.state = s.sl.state ∧ t.sl.last = s.sl.last ∧ t.sl.lastValid = s.sl.lastValid)

/-- R35, R36, R7: whatever step is taken, reset among them, no member of `haz` is removed, `trace` only grows at its end, and
the parameters and the number of channels stay. -/
def Obligations.HistoryAndHazardsOnlyGrow : Prop :=
  ∀ s t : State, step s = .next t →
    (s.haz.descWrite = true → t.haz.descWrite = true) ∧ (s.haz.bufferAlias = true → t.haz.bufferAlias = true) ∧
    (∃ l, t.trace = s.trace ++ l) ∧ t.par = s.par ∧ t.nCh = s.nCh

/-! ## Memory, the sequencer, hazards -/

/-- R71, R72: a write of n bytes followed by a read of the same n bytes gives the value written, low 8n bits, the byte at the
lowest address least significant; every byte outside reads as before. -/
def Obligations.MemoryReadsBackWhatWasWritten : Prop :=
  ∀ (m : Memory) (a n v : Nat), Memory.wf m → n = 1 ∨ n = 2 ∨ n = 4 →
    Memory.readLE (Memory.writeLE m a n v) a n = v % 256 ^ n ∧
    (∀ j, j < n → ((Memory.writeLE m a n v).read (a + j)).toNat = v / 256 ^ j % 256) ∧
    (∀ x, x < a ∨ a + n ≤ x → (Memory.writeLE m a n v).read x = m.read x)

/-- R148, R151, R366, R367: the element step of a channel whose fetched row is good and whose endpoints are memory moves one
element: the w bytes at the destination become those at the source, the count goes down by one and the last element clears the
active flag, one DMA record is written, the hazards of the move are noted (when: log entry 9), and nothing else changes. -/
def Obligations.ElementStepMovesOneElement : Prop :=
  ∀ (c : ChIdx) (s : State), SeqMayMove s c → rowAdmitted s.par (s.rowAddr c) = true → Memory.wf s.mem →
    let row := s.readRow (s.rowAddr c)
    let r := (s.ch c).rem
    let w := 2 ^ cfgWidth row.cfg
    let step32 := fun b : Bool => if b = true then (BitVec.ofNat 32 r.toNat - 1#32) * BitVec.ofNat 32 w else 0#32
    let sa := row.srcEnd - step32 (cfgSrcInc row.cfg)
    let da := row.dstEnd - step32 (cfgDstInc row.cfg)
    rowWellFormed row = true → r.toNat ≤ cfgCount row.cfg → sa ≠ s.par.aMstdat → da ≠ s.par.aMstdat →
    memAdmit s.par sa.toNat w = true → memAdmit s.par da.toNat w = true →
    ∃ t, takeTurn (.seq c) s = .next t ∧
      (∀ j, j < w → t.byteAt (da.toNat + j) = s.byteAt (sa.toNat + j)) ∧
      BytesKeptOutside s t da.toNat w ∧
      t.ch c = { s.ch c with rem := r - 1, active := decide (r ≠ 1) } ∧ OtherChansKept s t c ∧
      NotesMove s t c (some sa.toNat) (some da.toNat) w ∧
      t = { s with mem := t.mem, chans := t.chans, haz := t.haz,
                   trace := s.trace ++ [.dma c sa da w (s.memRead sa.toNat w)] }

/-- R149, R108: a row is well-formed exactly when its eight conditions hold, and where its fields stand. R148 to R150, R147, R196,
R73: the element step aborts, moving nothing and changing only the channel's error and active flags,
when the row is malformed or counts fewer elements than remain, when an endpoint is the port and the channel is not the master's
8-bit channel, or when memory does not admit an endpoint; that a row memory does not admit aborts too is read from R73 (log entry
11). A turn of SEQ[c] whose step is not enabled by the line of R148 passes with nothing changed (log entry 3). -/
def Obligations.ElementStepAbortsOnABadRowOrEndpoint : Prop :=
  (∀ row : Row,
    let cfg := row.cfg.toNat
    (rowWellFormed row = true ↔
      cfg % 2 = 1 ∧ cfg / 2 ^ 8 % 4 ≠ 3 ∧ cfg / 2 % 2 ^ 7 = 0 ∧ cfg / 2 ^ 10 % 4 = 0 ∧ cfg / 2 ^ 13 % 2 = 0 ∧
      cfg / 2 ^ 15 % 2 = 0 ∧ cfg / 2 ^ 26 = 0 ∧ row.next = 0#32) ∧
    cfgWidth row.cfg = cfg / 2 ^ 8 % 4 ∧ (cfgSrcInc row.cfg = true ↔ cfg / 2 ^ 12 % 2 = 1) ∧
    (cfgDstInc row.cfg = true ↔ cfg / 2 ^ 14 % 2 = 1) ∧ cfgCount row.cfg = cfg / 2 ^ 16 % 2 ^ 10 + 1) ∧
  ∀ (c : ChIdx) (s : State), (¬ SeqMayMove s c → takeTurn (.seq c) s = .next s) ∧
    (SeqMayMove s c →
    let row := s.readRow (s.rowAddr c)
    let r := (s.ch c).rem
    let w := 2 ^ cfgWidth row.cfg
    let sa := elemAddr row.srcEnd r (cfgWidth row.cfg) (cfgSrcInc row.cfg)
    let da := elemAddr row.dstEnd r (cfgWidth row.cfg) (cfgDstInc row.cfg)
    let port := sa = s.par.aMstdat ∨ da = s.par.aMstdat
    (rowAdmitted s.par (s.rowAddr c) = false ∨ rowWellFormed row = false ∨ cfgCount row.cfg < r.toNat ∨
      (port ∧ (w ≠ 1 ∨ (s.ch c).trig ≠ .i2cMst)) ∨
      (sa ≠ s.par.aMstdat ∧ memAdmit s.par sa.toNat w = false) ∨
      (da ≠ s.par.aMstdat ∧ memAdmit s.par da.toNat w = false)) →
    ∃ t, takeTurn (.seq c) s = .next t ∧ t.ch c = { s.ch c with err := .dmaAbort, active := false } ∧
      OtherChansKept s t c ∧ t = { s with chans := t.chans })

/-- R78, R148, R193, R196, R366, R367: the element step through the port. On the master's channel, whatever well-formed row of
bytes it fetches, an endpoint that is the port is read or written there: `PortRead` empties the register and counts, `PortWrite`
fills it; the move is recorded with its byte and its hazards. With the row M.START wrote the register is as the port's guard asks:
a write loads the next byte of the buffer into `m_dat`, a read stores `m_dat` at the next place of the buffer, empties it and
counts it. What a row changed under the armed channel reads from an empty register is some byte, and a full register is
overwritten (the model's choice, log entry 10). -/
def Obligations.MasterElementStepMovesAByteThroughThePort : Prop :=
  (∀ (c : ChIdx) (s : State), SeqMayMove s c → rowAdmitted s.par (s.rowAddr c) = true → Memory.wf s.mem →
    let row := s.readRow (s.rowAddr c)
    let r := (s.ch c).rem
    let step32 := fun b : Bool => if b = true then BitVec.ofNat 32 r.toNat - 1#32 else 0#32
    let sa := row.srcEnd - step32 (cfgSrcInc row.cfg)
    let da := row.dstEnd - step32 (cfgDstInc row.cfg)
    let sp := decide (sa = s.par.aMstdat)
    let dp := decide (da = s.par.aMstdat)
    rowWellFormed row = true → cfgWidth row.cfg = 0 → r.toNat ≤ cfgCount row.cfg → (s.ch c).trig = .i2cMst →
    (sp = true ∨ dp = true) → (sp = true ∨ memAdmit s.par sa.toNat 1 = true) → (dp = true ∨ memAdmit s.par da.toNat 1 = true) →
    ∃ (v : Byte) (t : State), takeTurn (.seq c) s = .next t ∧
      (sp = false → v = s.byteAt sa.toNat) ∧ (sp = true → s.me.full = true → v = s.me.dat) ∧
      t.me = { s.me with dat := if dp = true then v else s.me.dat, full := dp,
                         k := if sp = true then s.me.k + 1 else s.me.k } ∧
      (dp = true → BytesKept s t) ∧ (dp = false → t.byteAt da.toNat = v ∧ BytesKeptOutside s t da.toNat 1) ∧
      t.ch c = { s.ch c with rem := r - 1, active := decide (r ≠ 1) } ∧ OtherChansKept s t c ∧
      NotesMove s t c (if sp = true then none else some sa.toNat) (if dp = true then none else some da.toNat) 1 ∧
      (sp = false ∨ s.me.full = true → t.draws = s.draws) ∧
      t = { s with mem := t.mem, chans := t.chans, me := t.me, haz := t.haz, draws := t.draws,
                   trace := s.trace ++ [.dma c sa da 1 (BitVec.ofNat 32 v.toNat)] }) ∧
  (∀ s : State,
    let c := s.me.ch
    let at' := s.me.ptr.toNat + (s.me.len.toNat - (s.ch c).rem.toNat)
    SeqMayMove s c → (s.ch c).trig = .i2cMst → rowAdmitted s.par (s.rowAddr c) = true →
    s.readRow (s.rowAddr c) = rowOf (masterTransfer s.par s.me) → Memory.wf s.mem →
    badMasterBuffer s.par s.me.ptr (BitVec.ofNat 32 s.me.len.toNat) = false →
    1 ≤ (s.ch c).rem.toNat → (s.ch c).rem.toNat ≤ s.me.len.toNat → memAdmit s.par at' 1 = true →
    ∃ t, takeTurn (.seq c) s = .next t ∧
      (s.me.dir = .w → t.me = { s.me with dat := s.byteAt at', full := true } ∧ BytesKept s t ∧
        t.trace = s.trace ++
          [.dma c (BitVec.ofNat 32 at') s.par.aMstdat 1 (BitVec.ofNat 32 (s.byteAt at').toNat)] ∧
        NotesMove s t c (some at') none 1) ∧
      (s.me.dir = .r → t.me = { s.me with full := false, k := s.me.k + 1 } ∧ t.byteAt at' = s.me.dat ∧
        BytesKeptOutside s t at' 1 ∧
        t.trace = s.trace ++ [.dma c s.par.aMstdat (BitVec.ofNat 32 at') 1 (BitVec.ofNat 32 s.me.dat.toNat)] ∧
        NotesMove s t c none (some at') 1) ∧
      t.ch c = { s.ch c with rem := (s.ch c).rem - 1, active := decide ((s.ch c).rem ≠ 1) } ∧ OtherChansKept s t c ∧
      t.dcm = s.dcm ∧ t.sl = s.sl ∧ t.bus = s.bus ∧ t.draws = s.draws)

/-- R83, R82, R145, R148, R151, R366, R367: a memory-to-memory Transfer, each endpoint incrementing or fixed, whose source and
destination memory admits and are apart from each other and from the table, is carried out by as many element steps as it has
elements. Then each destination element holds the source element written there last (a fixed destination the last one of all), the
channel is no longer active and has no error, one DMA record per element stands in the trace after the arming's OP record, and
no byte outside the destination and the channel's row has changed, that row holding the Transfer. Of the state outside memory,
that channel and the trace nothing changes but the hazard record, which gains HAZ_BUFFER_ALIAS exactly when another channel armed
or in flight shares a byte as R367 says (when it is recorded: log entry 9). -/
def Obligations.AnArmedTransferIsCopiedWhole : Prop :=
  ∀ (c : ChIdx) (x : Transfer) (s : State),
    let w := 2 ^ x.width
    let srcAt := fun k : Nat => x.src.toNat + (if x.srcInc = true then k * w else 0)
    let dstAt := fun k : Nat => x.dst.toNat + (if x.dstInc = true then k * w else 0)
    let ns := if x.srcInc = true then x.count.toNat * w else w
    let nd := if x.dstInc = true then x.count.toNat * w else w
    let apart := fun a k b m : Nat => a + k ≤ b ∨ b + m ≤ a
    s.inp.clkDma = true → s.dcm.en = true → TableOk s → Memory.wf s.mem → c.toNat < s.nCh → (s.ch c).own = .held →
    validTransfer s.par x false = true → memAdmit s.par x.src.toNat ns = true → memAdmit s.par x.dst.toNat nd = true →
    apart x.src.toNat ns x.dst.toNat nd → apart x.src.toNat ns s.dcm.base.toNat (16 * s.nCh) →
    apart x.dst.toNat nd s.dcm.base.toNat (16 * s.nCh) →
    ∃ s1 t, exec (.chArm c x) s = .next s1 ∧ takeTurns (List.replicate x.count.toNat (.seq c)) s1 = some t ∧
      (∀ k j, k < x.count.toNat → j < w → (x.dstInc = true ∨ k + 1 = x.count.toNat) →
        t.byteAt (dstAt k + j) = s.byteAt (srcAt k + j)) ∧
      (∀ a, (a < x.dst.toNat ∨ x.dst.toNat + nd ≤ a) → (a < s.rowAddr c ∨ s.rowAddr c + 16 ≤ a) → t.byteAt a = s.byteAt a) ∧
      t.readRow (s.rowAddr c) = rowOf x ∧
      t.ch c = { own := .xfer, enabled := true, trig := .sw, active := false, err := .none, rem := 0,
                 src := ⟨x.src, BitVec.ofNat 32 ns⟩, dst := ⟨x.dst, BitVec.ofNat 32 nd⟩ } ∧
      OtherChansKept s t c ∧ t.nCh = s.nCh ∧
      t.trace = s.trace ++ [opRec (.chArm c x) s (reply c 0 0x00)] ++
        (List.range x.count.toNat).map (fun k =>
          Rec.dma c (BitVec.ofNat 32 (srcAt k)) (BitVec.ofNat 32 (dstAt k)) w (s.memRead (srcAt k) w)) ∧
      t.haz.descWrite = s.haz.descWrite ∧
      (t.haz.bufferAlias = true ↔ s.haz.bufferAlias = true ∨
        ∃ (k : Nat) (y : Chan), s.chans[k]? = some y ∧ k ≠ c.toNat ∧
          ((y.active = true ∧ SharesByte x.dst.toNat nd y.dst) ∨
           (y.own = .xfer ∧ (SharesByte x.src.toNat ns y.dst ∨ SharesByte x.dst.toNat nd y.src ∨
             SharesByte x.dst.toNat nd y.dst)))) ∧
      t = { s with mem := t.mem, chans := t.chans, haz := t.haz, trace := t.trace }

/-- R366, R367, R78: a load or store of the host processor happens, and is recorded as HAZ_DESC_WRITE when it is a store into the
table of an enabled engine and as HAZ_BUFFER_ALIAS when it touches a region a Transfer in flight owns; a load changes nothing
else. An access that touches the data port is refused, one memory does not admit stops: the spec gives neither a meaning, and
the two stops are the model's choice (log entry 7). -/
def Obligations.HostAccessesHappenAndNoteTheirHazards : Prop :=
  ∀ (a : Word) (w : AccWidth) (v : Word) (s : State),
    let n := w.bytes
    let port := a.toNat ≤ s.par.aMstdat.toNat ∧ s.par.aMstdat.toNat < a.toNat + n
    let shared := s.haz.bufferAlias = true ∨
      ∃ x ∈ s.chans, x.own = .xfer ∧ (SharesByte a.toNat n x.src ∨ SharesByte a.toNat n x.dst)
    (port → takeTurn (.outside (.load a w)) s = .refused .hostPortAccess ∧
      takeTurn (.outside (.store a w v)) s = .refused .hostPortAccess) ∧
    (¬ port → memAdmit s.par a.toNat n = false → takeTurn (.outside (.load a w)) s = .fault .hostNotAdmitted ∧
      takeTurn (.outside (.store a w v)) s = .fault .hostNotAdmitted) ∧
    (¬ port → memAdmit s.par a.toNat n = true →
      (∃ t, takeTurn (.outside (.load a w)) s = .next t ∧ t = { s with haz := t.haz } ∧
        t.haz.descWrite = s.haz.descWrite ∧ (t.haz.bufferAlias = true ↔ shared)) ∧
      (∃ t, takeTurn (.outside (.store a w v)) s = .next t ∧ t = { s with haz := t.haz, mem := t.mem } ∧
        BytesKeptOutside s t a.toNat n ∧ (Memory.wf s.mem → t.memRead a.toNat n = BitVec.ofNat 32 (v.toNat % 256 ^ n)) ∧
        (t.haz.descWrite = true ↔ s.haz.descWrite = true ∨
          (s.dcm.en = true ∧ a.toNat < s.dcm.base.toNat + 16 * s.nCh ∧ s.dcm.base.toNat < a.toNat + n)) ∧
        (t.haz.bufferAlias = true ↔ shared)))

/-! ## The bus, the framing unit and the environment -/

/-- R282, R283, R110: `SlaveLatch` puts its event in the indicator unless the slave is in Fault or a fault code is pending.
`DriveAddress` records START and the address byte's two fields, selects the own slave when it is enabled and the 7-bit values
are equal, whoever drives, and latches the address match; otherwise an external slave when one is present, else nobody. -/
def Obligations.AddressBytesSelectTheTarget : Prop :=
  (∀ (ev : EvCode) (s : State),
    slaveLatch ev s =
      if s.sl.fatal = false ∧ s.sl.pend.toNat < 4 then { s with sl := { s.sl with pend := ev } } else s) ∧
  (∀ (init : Initiator) (ab : Byte) (present : Bool) (s : State),
    let a7 := BitVec.ofNat 7 (ab.toNat / 2)
    let rw := if ab.toNat % 2 = 1 then Dir.r else Dir.w
    let own := s.sl.en = true ∧ a7 = s.sl.addr
    driveAddress init ab present s =
      { s with
        bus := ⟨.addr, init, if own then .ownSlv else if present = true then .extSlv else .none, rw, ab⟩
        sl := { s.sl with
                sel := if own then (if rw = .w then .selW else .selR) else .nsel
                pend := if own ∧ s.sl.fatal = false ∧ s.sl.pend.toNat < 4 then evAddrMatch else s.sl.pend }
        trace := s.trace ++ [.sym .start (drv init), .sym (.addr a7 rw) (drv init)] })

/-- R197, R207: step `start` drives START and the own address byte; when arbitration is lost the external master's byte goes on
the bus instead, the channel is stopped and ARB_LOST is recorded. Without `P_MULTIMASTER` it is always won; that a draw of the
own byte itself, which R207 does not allow, counts as won is the model's choice (log entry 12). -/
def Obligations.FramingStartsWithTheAddressOrLosesTheBus : Prop :=
  ∀ (arb : Arb) (present : Bool) (s : State), s.inp.clkI2c = true → s.me.phase = .start → s.bus.phase = .idle →
    let ab : Byte := BitVec.ofNat 8 (2 * s.me.addr.toNat + (if s.me.dir = .r then 1 else 0))
    ((s.par.multiMaster = false ∨ arb = .win ∨ arb = .lose ab) →
      takeTurn (.mfu (.start arb present)) s =
        .next ((driveAddress .own ab present s).setMe { s.me with phase := .addr })) ∧
    (∀ b : Byte, s.par.multiMaster = true → arb = .lose b → b ≠ ab →
      ∃ t, takeTurn (.mfu (.start arb present)) s = .next t ∧
        t.me = { s.me with fault := .arbLost, phase := .done } ∧
        t.bus = (driveAddress .ext b present s).bus ∧ t.sl = (driveAddress .ext b present s).sl ∧
        t.trace = (driveAddress .ext b present s).trace ∧ t.mem = s.mem ∧
        (s.me.ch.toNat < s.nCh → t.ch s.me.ch = { s.ch s.me.ch with active := false }) ∧ OtherChansKept s t s.me.ch)

/-- R198, R286: step `wdrive` puts the byte of the data register on the bus, empties the register and counts the byte; an own
slave that is the target has it in its receive register and the event latched. On a lost arbitration the external master's
byte is the one driven, the channel is stopped and ARB_LOST is recorded. That a draw of the own byte itself, which R207 does not
allow, counts as won is the model's choice (log entry 12). -/
def Obligations.FramingDrivesTheDataByte : Prop :=
  ∀ (arb : Arb) (s : State), s.inp.clkI2c = true → s.me.phase = .data → s.me.dir = .w → s.bus.init = .own →
    s.bus.phase = .wIdle → s.me.full = true →
    let driven := fun (init : Initiator) (b : Byte) (t : State) =>
      t.bus = { s.bus with phase := .wAckwait, init := init, byte := b } ∧
      t.trace = s.trace ++ [.sym (.data b) (drv init)] ∧
      t.sl = (if s.bus.tgt = .ownSlv then
        { s.sl with rxdat := b, pend := if s.sl.fatal = false ∧ s.sl.pend.toNat < 4 then evRxReady else s.sl.pend }
        else s.sl)
    ((s.par.multiMaster = false ∨ arb = .win ∨ arb = .lose s.me.dat) →
      ∃ t, takeTurn (.mfu (.wdrive arb)) s = .next t ∧ driven .own s.me.dat t ∧
        t.me = { s.me with full := false, k := s.me.k + 1 } ∧ t = { s with bus := t.bus, sl := t.sl, me := t.me, trace := t.trace }) ∧
    (∀ b : Byte, s.par.multiMaster = true → arb = .lose b → b ≠ s.me.dat →
      ∃ t, takeTurn (.mfu (.wdrive arb)) s = .next t ∧ driven .ext b t ∧
        t.me = { s.me with full := false, k := s.me.k + 1, fault := .arbLost, phase := .done } ∧
        (s.me.ch.toNat < s.nCh → t.ch s.me.ch = { s.ch s.me.ch with active := false }) ∧ OtherChansKept s t s.me.ch ∧
        t = { s with bus := t.bus, sl := t.sl, me := t.me, chans := t.chans, trace := t.trace })

/-- R199, R200, R202, R203, R297, R298: how the own master ends a transaction or goes on with a read. `wdone`: STOP after the
last byte of a write. `rrespond`: ACK while bytes are missing, which asks the target for the next, NACK and STOP after the
last. `nack`: STOP, the fault NACK_ADDR or NACK_DATA by the phase, the channel stopped with PERIPH_NACK. `dabort`: (NACK in a
read,) STOP, no fault recorded. -/
def Obligations.FramingEndsOrContinuesTheTransaction : Prop :=
  ∀ s : State, s.inp.clkI2c = true → s.bus.init = .own →
    let stopped := fun (t : State) (syms : List Rec) =>
      t.bus = { s.bus with phase := .idle, tgt := .none } ∧ t.sl = { s.sl with sel := .nsel } ∧
      t.trace = s.trace ++ syms ++ [.sym .stop .ownMaster] ∧
      t = { s with bus := t.bus, sl := t.sl, me := t.me, chans := t.chans, trace := t.trace }
    (s.me.phase = .data → s.me.dir = .w → s.bus.phase = .wIdle → s.me.k = s.me.len → s.me.full = false →
      ∃ t, takeTurn (.mfu .wdone) s = .next t ∧ stopped t [] ∧ t.me = { s.me with phase := .done } ∧ t.chans = s.chans) ∧
    (s.me.phase = .data → s.me.dir = .r → s.bus.phase = .rAckwait → s.me.full = false → (s.ch s.me.ch).err = .none →
      (s.me.k.toNat < s.me.len.toNat →
        ∃ t, takeTurn (.mfu .rrespond) s = .next t ∧ t.bus = { s.bus with phase := .rDatawait } ∧
          t.sl = (if s.bus.tgt = .ownSlv then (slaveLatch evTxReady s).sl else s.sl) ∧
          t = { s with bus := t.bus, sl := t.sl, trace := s.trace ++ [.sym .ack .ownMaster] }) ∧
      (s.me.len.toNat ≤ s.me.k.toNat →
        ∃ t, takeTurn (.mfu .rrespond) s = .next t ∧ stopped t [.sym .nack .ownMaster] ∧
          t.me = { s.me with phase := .done } ∧ t.chans = s.chans)) ∧
    ((s.me.phase = .addr ∨ s.me.phase = .data) → s.bus.phase = .ended →
      ∃ t, takeTurn (.mfu .nack) s = .next t ∧ stopped t [] ∧
        t.me = { s.me with phase := .done, fault := if s.me.phase = .addr then .nackAddr else .nackData } ∧
        (s.me.ch.toNat < s.nCh → t.ch s.me.ch = { s.ch s.me.ch with err := .periphNack, active := false }) ∧
        OtherChansKept s t s.me.ch) ∧
    (s.me.phase = .data → (s.ch s.me.ch).err = .dmaAbort →
      ((s.me.dir = .w ∧ s.bus.phase = .wIdle) ∨ (s.me.dir = .r ∧ s.bus.phase = .rAckwait)) →
      ∃ t, takeTurn (.mfu .dabort) s = .next t ∧
        stopped t (match s.me.dir with | .w => [] | .r => [.sym .nack .ownMaster]) ∧
        t.me = { s.me with phase := .done } ∧ t.chans = s.chans)

/-- R195: at most one kind of framing step is enabled at a time, in every state that meets the master's invariant and whose table
nobody has written into (R42: "with `haz` empty"). -/
def Obligations.AtMostOneFramingStepIsEnabled : Prop :=
  ∀ (s : State) (m m' : MfuStep), MasterOk s → s.haz.descWrite = false → mfuEnabled m s = true → mfuEnabled m' s = true →
    (∃ a p a' p', m = .start a p ∧ m' = .start a' p') ∨ (∃ a a', m = .wdrive a ∧ m' = .wdrive a') ∨ m = m'

/-- R288 to R291, R284, R285, R287: how an address, a written byte and a read request that are not the own slave's are answered:
by nobody with NACK, by an external slave with what the environment draws. -/
def Obligations.OtherDevicesAnswerTheBus : Prop :=
  ∀ s : State,
    (s.bus.phase = .addr → s.bus.tgt = .none →
      takeTurn .bus s =
        .next { s with bus := { s.bus with phase := .ended }, trace := s.trace ++ [.sym .nack .nobody] }) ∧
    (s.bus.phase = .addr → s.bus.tgt = .extSlv →
      takeTurn (.env (.xsAddr false)) s =
        .next { s with bus := { s.bus with phase := .ended }, trace := s.trace ++ [.sym .nack .extSlave] } ∧
      takeTurn (.env (.xsAddr true)) s =
        .next { s with
                bus := { s.bus with phase := (match s.bus.rw with | .w => .wIdle | .r => .rDatawait) }
                me := { s.me with phase := if s.bus.init = .own then .data else s.me.phase }
                trace := s.trace ++ [.sym .ack .extSlave] }) ∧
    (s.bus.phase = .wAckwait → s.bus.tgt = .extSlv → ∀ ack : Bool,
      takeTurn (.env (.xsWdata ack)) s =
        .next { s with
                bus := { s.bus with phase := if ack = true then .wIdle else .ended }
                trace := s.trace ++ [.sym (if ack = true then .ack else .nack) .extSlave] }) ∧
    (s.bus.phase = .rDatawait → s.bus.tgt = .extSlv → ∀ b : Byte,
      takeTurn (.env (.xsRdata b)) s =
        .next { s with
                bus := { s.bus with phase := .rAckwait, byte := b }
                me := if s.bus.init = .own then { s.me with dat := b, full := true } else s.me
                trace := s.trace ++ [.sym (.data b) .extSlave] })

/-- R292 to R295, R286, R297: what an external master does: it starts a transaction on an idle bus (by the address resolution of
R283), writes bytes, which reach the own slave's receive register and raise its event when it is the target, answers bytes it
reads, and ends with STOP or a repeated START, which first deselects the own slave. -/
def Obligations.ExternalMastersDriveTheBus : Prop :=
  ∀ s : State,
    (s.bus.phase = .idle → ∀ a7 rw present,
      takeTurn (.env (.xmStart a7 rw present)) s = .next (driveAddress .ext (addressByte a7 rw) present s)) ∧
    (s.bus.init = .ext → s.bus.phase = .wIdle → ∀ b : Byte,
      takeTurn (.env (.xmWdata b)) s =
        .next { s with
                bus := { s.bus with phase := .wAckwait, byte := b }
                sl := if s.bus.tgt = .ownSlv then
                    { s.sl with rxdat := b, pend := if s.sl.fatal = false ∧ s.sl.pend.toNat < 4 then evRxReady else s.sl.pend }
                  else s.sl
                trace := s.trace ++ [.sym (.data b) .extMaster] }) ∧
    (s.bus.init = .ext → s.bus.phase = .rAckwait →
      takeTurn (.env (.xmRresp false)) s =
        .next { s with bus := { s.bus with phase := .ended }, trace := s.trace ++ [.sym .nack .extMaster] } ∧
      ∃ t, takeTurn (.env (.xmRresp true)) s = .next t ∧
        t = { s with
              bus := { s.bus with phase := .rDatawait }
              sl := if s.bus.tgt = .ownSlv then (slaveLatch evTxReady s).sl else s.sl
              trace := s.trace ++ [.sym .ack .extMaster] }) ∧
    (s.bus.init = .ext → s.bus.phase = .wIdle ∨ s.bus.phase = .ended →
      takeTurn (.env .xmStop) s =
        .next { s with
                bus := { s.bus with phase := .idle, tgt := .none }
                sl := { s.sl with sel := .nsel }
                trace := s.trace ++ [.sym .stop .extMaster] } ∧
      ∀ a7 rw present, ∃ t u, takeTurn (.env (.xmRestart a7 rw present)) s = .next t ∧
        u = { s with bus := { s.bus with tgt := .none }, sl := { s.sl with sel := .nsel } } ∧
        t = driveAddress .ext (addressByte a7 rw) present u)

/-- R208, R256: the two reports of the hardware. A bus timeout, when the parameter allows it and a transaction is under way,
stops the channel, records BUS_TIMEOUT and, in mid-transaction, leaves the bus hung. A slave fault code, when the parameter
lists it and the slave is enabled with no fault pending or surfaced, replaces the pending event; the bus stays. A report that is
not enabled is no step; that its turn then passes with nothing changed is the model's choice (log entry 3). -/
def Obligations.TimeoutsAndSlaveFaultsAreReported : Prop :=
  ∀ s : State,
    (s.par.busTimeout = .may → s.me.phase = .start ∨ s.me.phase = .addr ∨ s.me.phase = .data →
      ∃ t, takeTurn (.env .timeout) s = .next t ∧
        t.bus = { s.bus with
                  phase := if s.me.phase ≠ .start ∧ s.bus.init = .own ∧ s.bus.phase ≠ .idle then .hung else s.bus.phase } ∧
        t.me = { s.me with fault := .busTimeout, phase := .done } ∧
        (s.me.ch.toNat < s.nCh → t.ch s.me.ch = { s.ch s.me.ch with active := false }) ∧ OtherChansKept s t s.me.ch ∧
        t = { s with bus := t.bus, me := t.me, chans := t.chans, trace := s.trace ++ [.fault .busTimeout] }) ∧
    (s.par.busTimeout = .never ∨ s.me.phase = .idle ∨ s.me.phase = .pending ∨ s.me.phase = .done →
      takeTurn (.env .timeout) s = .next s) ∧
    (∀ code : EvCode, s.par.slvFaults.contains code = true → 4 ≤ code.toNat → s.sl.en = true → s.sl.fatal = false →
      s.sl.pend.toNat < 4 →
      takeTurn (.env (.slvFault code)) s =
        .next { s with sl := { s.sl with pend := code }, trace := s.trace ++ [.fault (.slave code)] }) ∧
    (∀ code : EvCode, s.par.slvFaults.contains code = false ∨ code.toNat < 4 ∨ s.sl.en = false ∨ s.sl.fatal = true ∨
      4 ≤ s.sl.pend.toNat → takeTurn (.env (.slvFault code)) s = .next s)

/-- R299, R255: in each phase of the bus only the party that owes the next symbol moves it: a step that changes the bus is one of
those the stall table lists for the phase, the target and the initiator (but for reset and a reported timeout), and a host
step that does is an S.SERVICE of the pending event. -/
def Obligations.OnlyTheOwingPartyMovesTheBus : Prop :=
  (∀ (turn : Turn) (s t : State), SlaveBusOk s → turn ≠ .reset → turn ≠ .env .timeout → takeTurn turn s = .next t →
    t.bus ≠ s.bus → s.bus.owes turn = true) ∧
  (∀ (i : Instr) (s t : State), SlaveBusOk s → exec i s = .next t → t.bus ≠ s.bus →
    i = .sService ∧ s.bus.tgt = .ownSlv ∧
    ((s.sl.pend = evAddrMatch ∧ s.bus.phase = .addr) ∨ (s.sl.pend = evRxReady ∧ s.bus.phase = .wAckwait) ∨
     (s.sl.pend = evTxReady ∧ s.bus.phase = .rDatawait)))

/-- R300, R361: nothing but reset leaves B_HUNG, and until then the target and the selection stay. -/
def Obligations.AHungBusIsLeftOnlyByReset : Prop :=
  ∀ (turn : Turn) (s t : State), s.bus.phase = .hung → turn ≠ .reset → takeTurn turn s = .next t →
    t.bus = s.bus ∧ t.sl.sel = s.sl.sel

/-- R281, R111, R295: the symbols a step records continue the grammar of a transaction from the position the bus phase stands for
to the position of the new phase, whoever drives; only an external master follows a body with a START. (Reset abandons a
transaction, and a hung bus has no position.) -/
def Obligations.BusSymbolsFollowTheGrammar : Prop :=
  ∀ (turn : Turn) (s t : State), SlaveBusOk s → turn ≠ .reset → s.bus.phase ≠ .hung → takeTurn turn s = .next t →
    t.bus.phase ≠ .hung →
    ∃ l, t.trace = s.trace ++ l ∧ s.bus.pos.readAll (symsOf l) = some t.bus.pos

/-- R190, R209: the phase of the master moves only forward: M_IDLE, M_PENDING, M_START, M_ADDR, M_DATA, M_DONE, M_IDLE, with a
fault going from M_START, M_ADDR or M_DATA to M_DONE; nothing else but reset, in particular nothing takes a pending or started
transaction back. -/
def Obligations.TheMasterPhaseOnlyMovesForward : Prop :=
  ∀ (turn : Turn) (s t : State), MasterOk s → IntServesOnly s → turn ≠ .reset → takeTurn turn s = .next t →
    t.me.phase = s.me.phase ∨
    (s.me.phase, t.me.phase) ∈
      [(MPhase.idle, MPhase.pending), (.pending, .start), (.start, .addr), (.addr, .data), (.data, .done), (.done, .idle),
       (.start, .done), (.addr, .done)]

/-! ## Invariants -/

/-- R41, R35, R36, R42: the state after reset holds the reset values, no hazard and an empty history, and meets every
invariant. That its memory lists nothing, its parameters are the suggested ones and its inputs are at 1 is the model's choice
(log entries 2, 4, 6). -/
def Obligations.TheResetStateHoldsTheResetValuesAndInvariants : Prop :=
  ResetValues State.reset ∧ HazEmpty State.reset ∧ State.reset.trace = [] ∧ InputsOn State.reset ∧
    Memory.wf State.reset.mem ∧ TableOk State.reset ∧ SlaveBusOk State.reset ∧ MasterOk State.reset ∧
    IntServesOnly State.reset ∧ ParamsOk State.reset.par State.reset.nCh

/-- R73, R76, R141: every step keeps an enabled engine's table aligned, inside the address space and admitted; it also keeps the
canonical form of memory, which is the model's choice (log entry 6). -/
def Obligations.EveryStepKeepsTheMemoryFormAndTheTable : Prop :=
  ∀ s t : State, step s = .next t → (Memory.wf s.mem → Memory.wf t.mem) ∧ (TableOk s → TableOk t)

/-- R42 items 4 to 7, R31: every step keeps the invariant of the slave and the bus. -/
def Obligations.EveryStepKeepsTheSlaveInvariant : Prop :=
  ∀ s t : State, SlaveBusOk s → step s = .next t → SlaveBusOk t

/-- R42 items 1, 2, 3 and 8: every step keeps the invariant of the channels and the master, as long as INT issues only
S.SERVICE and the schedule gives it nothing else to issue, which is kept too (R338: the convention the engine does not check; log
entry 17). The premise on memory is its
canonical form (log entry 6), kept by every step as well. -/
def Obligations.EveryStepKeepsTheMasterInvariant : Prop :=
  ∀ s t : State, Memory.wf s.mem → MasterOk s → IntServesOnly s → ScheduleServesOnly s → step s = .next t →
    MasterOk t ∧ IntServesOnly t ∧ ScheduleServesOnly t

/-- R42: the nine invariants hold at every moment of every run that begins with a RESET step, whatever the host issues in FG,
with S.SERVICE alone in INT (log entry 17), whatever the environment and the outside parties do; the count of item 3, `m_k <=
m_len`, while nobody has written into the table, the others even then. Memory starts in its canonical form (log entry 6). -/
def Obligations.TheNineInvariantsHoldOnEveryRun : Prop :=
  ∀ (turns : Nat → Turn) (states : Nat → State), IsRunFromReset turns states → Memory.wf (states 0).mem →
    (∀ p ∈ (states 0).int.prog, decode p = none ∨ decode p = some .sService) → (∀ n, (turns n).servesOnly = true) →
    ∀ n, let s := states n
      (∀ c, (s.ch c).active = true →
        (s.ch c).own = .xfer ∧ s.dcm.en = true ∧ (s.ch c).enabled = true ∧ 1 ≤ (s.ch c).rem.toNat) ∧
      (∀ c, (s.ch c).own = .xfer → (s.ch c).trig = .i2cMst → c = s.me.ch ∧ s.me.phase ≠ .idle) ∧
      (s.me.phase ≠ .idle →
        (s.ch s.me.ch).own = .xfer ∧ 1 ≤ s.me.len.toNat ∧ s.me.len.toNat ≤ 1024 ∧
        (s.haz.descWrite = false → s.me.k.toNat ≤ s.me.len.toNat)) ∧
      (s.sl.pend.toNat = 1 ∨ s.sl.pend.toNat = 2 ∨ s.sl.pend.toNat = 3 →
        s.sl.en = true ∧ s.bus.tgt = .ownSlv ∧
        (s.bus.phase = .hung ∨ (s.sl.pend = evAddrMatch ∧ s.bus.phase = .addr) ∨
          (s.sl.pend = evRxReady ∧ s.bus.phase = .wAckwait) ∨ (s.sl.pend = evTxReady ∧ s.bus.phase = .rDatawait))) ∧
      (s.sl.state = .fault ↔ s.sl.fatal = true) ∧
      (s.sl.state = .receivingByte → s.sl.lastValid = true) ∧
      (s.bus.phase = .idle → s.bus.tgt = .none ∧ s.sl.sel = .nsel) ∧
      (s.me.phase = .addr ∨ s.me.phase = .data → s.bus.phase = .hung ∨ (s.bus.init = .own ∧ s.bus.phase ≠ .idle)) ∧
      (∀ c d : ChIdx, c ≠ d → s.rowAddr c + 16 ≤ s.rowAddr d ∨ s.rowAddr d + 16 ≤ s.rowAddr c)

/-! ## The interrupt output -/

/-- R330, R32, R332: the interrupt output `s_irq` is 1 exactly while the slave is enabled, an event is pending and no fault
is surfaced; it is a level, so once it is 1 no step but reset and an S.SERVICE that clears the event or surfaces a fault lowers it.
After a service it is still 1 only when a read's address match has latched the byte request, or in the underrun under STALL. -/
def Obligations.TheInterruptLineIsALevel : Prop :=
  (∀ s : State, s.sIrq = true ↔ s.sl.en = true ∧ s.sl.pend ≠ 0#4 ∧ s.sl.fatal = false) ∧
  (∀ (turn : Turn) (s t : State), turn ≠ .reset → takeTurn turn s = .next t → s.sIrq = true → t.sIrq = false →
    (t.sl.pend = 0#4 ∨ t.sl.fatal = true) ∧
    ∃ x p rest, turn = .host x ∧ (s.ctx x).hold = none ∧ (s.ctx x).prog = p :: rest ∧ decode p = some .sService) ∧
  (∀ s t : State, exec .sService s = .next t → s.sIrq = true →
    (t.sIrq = true ↔
      (s.sl.pend = evAddrMatch ∧ s.bus.phase = .addr ∧ s.bus.rw = .r ∧ s.bus.tgt = .ownSlv) ∨
      (s.sl.pend = evTxReady ∧ s.sl.lastValid = false ∧ s.par.txUnderrun = .stall)))
end

