-- ==== Sys2Proof/Laws/State.lean ====
section
/-! SUPPORT. One lemma per field per update of the state, true by rfl, so that no later proof unfolds an update; and the
readings of the channel registers after a write of one of them. -/

namespace Sys2Proof.Machine

/-! ### `setDcm` -/
@[simp] theorem setDcm_par (s : State) (d : Dcm) : (s.setDcm d).par = s.par := rfl
@[simp] theorem setDcm_dcm (s : State) (d : Dcm) : (s.setDcm d).dcm = d := rfl
@[simp] theorem setDcm_chans (s : State) (d : Dcm) : (s.setDcm d).chans = s.chans := rfl
@[simp] theorem setDcm_me (s : State) (d : Dcm) : (s.setDcm d).me = s.me := rfl
@[simp] theorem setDcm_sl (s : State) (d : Dcm) : (s.setDcm d).sl = s.sl := rfl
@[simp] theorem setDcm_bus (s : State) (d : Dcm) : (s.setDcm d).bus = s.bus := rfl
@[simp] theorem setDcm_inp (s : State) (d : Dcm) : (s.setDcm d).inp = s.inp := rfl
@[simp] theorem setDcm_mem (s : State) (d : Dcm) : (s.setDcm d).mem = s.mem := rfl
@[simp] theorem setDcm_haz (s : State) (d : Dcm) : (s.setDcm d).haz = s.haz := rfl
@[simp] theorem setDcm_trace (s : State) (d : Dcm) : (s.setDcm d).trace = s.trace := rfl
@[simp] theorem setDcm_fg (s : State) (d : Dcm) : (s.setDcm d).fg = s.fg := rfl
@[simp] theorem setDcm_int (s : State) (d : Dcm) : (s.setDcm d).int = s.int := rfl
@[simp] theorem setDcm_cur (s : State) (d : Dcm) : (s.setDcm d).cur = s.cur := rfl
@[simp] theorem setDcm_sched (s : State) (d : Dcm) : (s.setDcm d).sched = s.sched := rfl
@[simp] theorem setDcm_draws (s : State) (d : Dcm) : (s.setDcm d).draws = s.draws := rfl

/-! ### `setMe` -/
@[simp] theorem setMe_par (s : State) (m : Master) : (s.setMe m).par = s.par := rfl
@[simp] theorem setMe_dcm (s : State) (m : Master) : (s.setMe m).dcm = s.dcm := rfl
@[simp] theorem setMe_chans (s : State) (m : Master) : (s.setMe m).chans = s.chans := rfl
@[simp] theorem setMe_me (s : State) (m : Master) : (s.setMe m).me = m := rfl
@[simp] theorem setMe_sl (s : State) (m : Master) : (s.setMe m).sl = s.sl := rfl
@[simp] theorem setMe_bus (s : State) (m : Master) : (s.setMe m).bus = s.bus := rfl
@[simp] theorem setMe_inp (s : State) (m : Master) : (s.setMe m).inp = s.inp := rfl
@[simp] theorem setMe_mem (s : State) (m : Master) : (s.setMe m).mem = s.mem := rfl
@[simp] theorem setMe_haz (s : State) (m : Master) : (s.setMe m).haz = s.haz := rfl
@[simp] theorem setMe_trace (s : State) (m : Master) : (s.setMe m).trace = s.trace := rfl
@[simp] theorem setMe_fg (s : State) (m : Master) : (s.setMe m).fg = s.fg := rfl
@[simp] theorem setMe_int (s : State) (m : Master) : (s.setMe m).int = s.int := rfl
@[simp] theorem setMe_cur (s : State) (m : Master) : (s.setMe m).cur = s.cur := rfl
@[simp] theorem setMe_sched (s : State) (m : Master) : (s.setMe m).sched = s.sched := rfl
@[simp] theorem setMe_draws (s : State) (m : Master) : (s.setMe m).draws = s.draws := rfl

/-! ### `setSl` -/
@[simp] theorem setSl_par (s : State) (x : Slave) : (s.setSl x).par = s.par := rfl
@[simp] theorem setSl_dcm (s : State) (x : Slave) : (s.setSl x).dcm = s.dcm := rfl
@[simp] theorem setSl_chans (s : State) (x : Slave) : (s.setSl x).chans = s.chans := rfl
@[simp] theorem setSl_me (s : State) (x : Slave) : (s.setSl x).me = s.me := rfl
@[simp] theorem setSl_sl (s : State) (x : Slave) : (s.setSl x).sl = x := rfl
@[simp] theorem setSl_bus (s : State) (x : Slave) : (s.setSl x).bus = s.bus := rfl
@[simp] theorem setSl_inp (s : State) (x : Slave) : (s.setSl x).inp = s.inp := rfl
@[simp] theorem setSl_mem (s : State) (x : Slave) : (s.setSl x).mem = s.mem := rfl
@[simp] theorem setSl_haz (s : State) (x : Slave) : (s.setSl x).haz = s.haz := rfl
@[simp] theorem setSl_trace (s : State) (x : Slave) : (s.setSl x).trace = s.trace := rfl
@[simp] theorem setSl_fg (s : State) (x : Slave) : (s.setSl x).fg = s.fg := rfl
@[simp] theorem setSl_int (s : State) (x : Slave) : (s.setSl x).int = s.int := rfl
@[simp] theorem setSl_cur (s : State) (x : Slave) : (s.setSl x).cur = s.cur := rfl
@[simp] theorem setSl_sched (s : State) (x : Slave) : (s.setSl x).sched = s.sched := rfl
@[simp] theorem setSl_draws (s : State) (x : Slave) : (s.setSl x).draws = s.draws := rfl

/-! ### `setBus` -/
@[simp] theorem setBus_par (s : State) (b : Bus) : (s.setBus b).par = s.par := rfl
@[simp] theorem setBus_dcm (s : State) (b : Bus) : (s.setBus b).dcm = s.dcm := rfl
@[simp] theorem setBus_chans (s : State) (b : Bus) : (s.setBus b).chans = s.chans := rfl
@[simp] theorem setBus_me (s : State) (b : Bus) : (s.setBus b).me = s.me := rfl
@[simp] theorem setBus_sl (s : State) (b : Bus) : (s.setBus b).sl = s.sl := rfl
@[simp] theorem setBus_bus (s : State) (b : Bus) : (s.setBus b).bus = b := rfl
@[simp] theorem setBus_inp (s : State) (b : Bus) : (s.setBus b).inp = s.inp := rfl
@[simp] theorem setBus_mem (s : State) (b : Bus) : (s.setBus b).mem = s.mem := rfl
@[simp] theorem setBus_haz (s : State) (b : Bus) : (s.setBus b).haz = s.haz := rfl
@[simp] theorem setBus_trace (s : State) (b : Bus) : (s.setBus b).trace = s.trace := rfl
@[simp] theorem setBus_fg (s : State) (b : Bus) : (s.setBus b).fg = s.fg := rfl
@[simp] theorem setBus_int (s : State) (b : Bus) : (s.setBus b).int = s.int := rfl
@[simp] theorem setBus_cur (s : State) (b : Bus) : (s.setBus b).cur = s.cur := rfl
@[simp] theorem setBus_sched (s : State) (b : Bus) : (s.setBus b).sched = s.sched := rfl
@[simp] theorem setBus_draws (s : State) (b : Bus) : (s.setBus b).draws = s.draws := rfl

/-! ### `setInp` -/
@[simp] theorem setInp_par (s : State) (n : Inputs) : (s.setInp n).par = s.par := rfl
@[simp] theorem setInp_dcm (s : State) (n : Inputs) : (s.setInp n).dcm = s.dcm := rfl
@[simp] theorem setInp_chans (s : State) (n : Inputs) : (s.setInp n).chans = s.chans := rfl
@[simp] theorem setInp_me (s : State) (n : Inputs) : (s.setInp n).me = s.me := rfl
@[simp] theorem setInp_sl (s : State) (n : Inputs) : (s.setInp n).sl = s.sl := rfl
@[simp] theorem setInp_bus (s : State) (n : Inputs) : (s.setInp n).bus = s.bus := rfl
@[simp] theorem setInp_inp (s : State) (n : Inputs) : (s.setInp n).inp = n := rfl
@[simp] theorem setInp_mem (s : State) (n : Inputs) : (s.setInp n).mem = s.mem := rfl
@[simp] theorem setInp_haz (s : State) (n : Inputs) : (s.setInp n).haz = s.haz := rfl
@[simp] theorem setInp_trace (s : State) (n : Inputs) : (s.setInp n).trace = s.trace := rfl
@[simp] theorem setInp_fg (s : State) (n : Inputs) : (s.setInp n).fg = s.fg := rfl
@[simp] theorem setInp_int (s : State) (n : Inputs) : (s.setInp n).int = s.int := rfl
@[simp] theorem setInp_cur (s : State) (n : Inputs) : (s.setInp n).cur = s.cur := rfl
@[simp] theorem setInp_sched (s : State) (n : Inputs) : (s.setInp n).sched = s.sched := rfl
@[simp] theorem setInp_draws (s : State) (n : Inputs) : (s.setInp n).draws = s.draws := rfl

/-! ### `setMem` -/
@[simp] theorem setMem_par (s : State) (m : Memory) : (s.setMem m).par = s.par := rfl
@[simp] theorem setMem_dcm (s : State) (m : Memory) : (s.setMem m).dcm = s.dcm := rfl
@[simp] theorem setMem_chans (s : State) (m : Memory) : (s.setMem m).chans = s.chans := rfl
@[simp] theorem setMem_me (s : State) (m : Memory) : (s.setMem m).me = s.me := rfl
@[simp] theorem setMem_sl (s : State) (m : Memory) : (s.setMem m).sl = s.sl := rfl
@[simp] theorem setMem_bus (s : State) (m : Memory) : (s.setMem m).bus = s.bus := rfl
@[simp] theorem setMem_inp (s : State) (m : Memory) : (s.setMem m).inp = s.inp := rfl
@[simp] theorem setMem_mem (s : State) (m : Memory) : (s.setMem m).mem = m := rfl
@[simp] theorem setMem_haz (s : State) (m : Memory) : (s.setMem m).haz = s.haz := rfl
@[simp] theorem setMem_trace (s : State) (m : Memory) : (s.setMem m).trace = s.trace := rfl
@[simp] theorem setMem_fg (s : State) (m : Memory) : (s.setMem m).fg = s.fg := rfl
@[simp] theorem setMem_int (s : State) (m : Memory) : (s.setMem m).int = s.int := rfl
@[simp] theorem setMem_cur (s : State) (m : Memory) : (s.setMem m).cur = s.cur := rfl
@[simp] theorem setMem_sched (s : State) (m : Memory) : (s.setMem m).sched = s.sched := rfl
@[simp] theorem setMem_draws (s : State) (m : Memory) : (s.setMem m).draws = s.draws := rfl

/-! ### `setHaz` -/
@[simp] theorem setHaz_par (s : State) (h : Haz) : (s.setHaz h).par = s.par := rfl
@[simp] theorem setHaz_dcm (s : State) (h : Haz) : (s.setHaz h).dcm = s.dcm := rfl
@[simp] theorem setHaz_chans (s : State) (h : Haz) : (s.setHaz h).chans = s.chans := rfl
@[simp] theorem setHaz_me (s : State) (h : Haz) : (s.setHaz h).me = s.me := rfl
@[simp] theorem setHaz_sl (s : State) (h : Haz) : (s.setHaz h).sl = s.sl := rfl
@[simp] theorem setHaz_bus (s : State) (h : Haz) : (s.setHaz h).bus = s.bus := rfl
@[simp] theorem setHaz_inp (s : State) (h : Haz) : (s.setHaz h).inp = s.inp := rfl
@[simp] theorem setHaz_mem (s : State) (h : Haz) : (s.setHaz h).mem = s.mem := rfl
@[simp] theorem setHaz_haz (s : State) (h : Haz) : (s.setHaz h).haz = h := rfl
@[simp] theorem setHaz_trace (s : State) (h : Haz) : (s.setHaz h).trace = s.trace := rfl
@[simp] theorem setHaz_fg (s : State) (h : Haz) : (s.setHaz h).fg = s.fg := rfl
@[simp] theorem setHaz_int (s : State) (h : Haz) : (s.setHaz h).int = s.int := rfl
@[simp] theorem setHaz_cur (s : State) (h : Haz) : (s.setHaz h).cur = s.cur := rfl
@[simp] theorem setHaz_sched (s : State) (h : Haz) : (s.setHaz h).sched = s.sched := rfl
@[simp] theorem setHaz_draws (s : State) (h : Haz) : (s.setHaz h).draws = s.draws := rfl

/-! ### `setChans` -/
@[simp] theorem setChans_par (s : State) (l : List Chan) : (s.setChans l).par = s.par := rfl
@[simp] theorem setChans_dcm (s : State) (l : List Chan) : (s.setChans l).dcm = s.dcm := rfl
@[simp] theorem setChans_chans (s : State) (l : List Chan) : (s.setChans l).chans = l := rfl
@[simp] theorem setChans_me (s : State) (l : List Chan) : (s.setChans l).me = s.me := rfl
@[simp] theorem setChans_sl (s : State) (l : List Chan) : (s.setChans l).sl = s.sl := rfl
@[simp] theorem setChans_bus (s : State) (l : List Chan) : (s.setChans l).bus = s.bus := rfl
@[simp] theorem setChans_inp (s : State) (l : List Chan) : (s.setChans l).inp = s.inp := rfl
@[simp] theorem setChans_mem (s : State) (l : List Chan) : (s.setChans l).mem = s.mem := rfl
@[simp] theorem setChans_haz (s : State) (l : List Chan) : (s.setChans l).haz = s.haz := rfl
@[simp] theorem setChans_trace (s : State) (l : List Chan) : (s.setChans l).trace = s.trace := rfl
@[simp] theorem setChans_fg (s : State) (l : List Chan) : (s.setChans l).fg = s.fg := rfl
@[simp] theorem setChans_int (s : State) (l : List Chan) : (s.setChans l).int = s.int := rfl
@[simp] theorem setChans_cur (s : State) (l : List Chan) : (s.setChans l).cur = s.cur := rfl
@[simp] theorem setChans_sched (s : State) (l : List Chan) : (s.setChans l).sched = s.sched := rfl
@[simp] theorem setChans_draws (s : State) (l : List Chan) : (s.setChans l).draws = s.draws := rfl

/-! ### `setCur` -/
@[simp] theorem setCur_par (s : State) (c : Ctx) : (s.setCur c).par = s.par := rfl
@[simp] theorem setCur_dcm (s : State) (c : Ctx) : (s.setCur c).dcm = s.dcm := rfl
@[simp] theorem setCur_chans (s : State) (c : Ctx) : (s.setCur c).chans = s.chans := rfl
@[simp] theorem setCur_me (s : State) (c : Ctx) : (s.setCur c).me = s.me := rfl
@[simp] theorem setCur_sl (s : State) (c : Ctx) : (s.setCur c).sl = s.sl := rfl
@[simp] theorem setCur_bus (s : State) (c : Ctx) : (s.setCur c).bus = s.bus := rfl
@[simp] theorem setCur_inp (s : State) (c : Ctx) : (s.setCur c).inp = s.inp := rfl
@[simp] theorem setCur_mem (s : State) (c : Ctx) : (s.setCur c).mem = s.mem := rfl
@[simp] theorem setCur_haz (s : State) (c : Ctx) : (s.setCur c).haz = s.haz := rfl
@[simp] theorem setCur_trace (s : State) (c : Ctx) : (s.setCur c).trace = s.trace := rfl
@[simp] theorem setCur_fg (s : State) (c : Ctx) : (s.setCur c).fg = s.fg := rfl
@[simp] theorem setCur_int (s : State) (c : Ctx) : (s.setCur c).int = s.int := rfl
@[simp] theorem setCur_cur (s : State) (c : Ctx) : (s.setCur c).cur = c := rfl
@[simp] theorem setCur_sched (s : State) (c : Ctx) : (s.setCur c).sched = s.sched := rfl
@[simp] theorem setCur_draws (s : State) (c : Ctx) : (s.setCur c).draws = s.draws := rfl

/-! ### `setSched` -/
@[simp] theorem setSched_par (s : State) (l : List Turn) : (s.setSched l).par = s.par := rfl
@[simp] theorem setSched_dcm (s : State) (l : List Turn) : (s.setSched l).dcm = s.dcm := rfl
@[simp] theorem setSched_chans (s : State) (l : List Turn) : (s.setSched l).chans = s.chans := rfl
@[simp] theorem setSched_me (s : State) (l : List Turn) : (s.setSched l).me = s.me := rfl
@[simp] theorem setSched_sl (s : State) (l : List Turn) : (s.setSched l).sl = s.sl := rfl
@[simp] theorem setSched_bus (s : State) (l : List Turn) : (s.setSched l).bus = s.bus := rfl
@[simp] theorem setSched_inp (s : State) (l : List Turn) : (s.setSched l).inp = s.inp := rfl
@[simp] theorem setSched_mem (s : State) (l : List Turn) : (s.setSched l).mem = s.mem := rfl
@[simp] theorem setSched_haz (s : State) (l : List Turn) : (s.setSched l).haz = s.haz := rfl
@[simp] theorem setSched_trace (s : State) (l : List Turn) : (s.setSched l).trace = s.trace := rfl
@[simp] theorem setSched_fg (s : State) (l : List Turn) : (s.setSched l).fg = s.fg := rfl
@[simp] theorem setSched_int (s : State) (l : List Turn) : (s.setSched l).int = s.int := rfl
@[simp] theorem setSched_cur (s : State) (l : List Turn) : (s.setSched l).cur = s.cur := rfl
@[simp] theorem setSched_sched (s : State) (l : List Turn) : (s.setSched l).sched = l := rfl
@[simp] theorem setSched_draws (s : State) (l : List Turn) : (s.setSched l).draws = s.draws := rfl

/-! ### `nextDraw` -/
@[simp] theorem nextDraw_par (s : State) : s.nextDraw.par = s.par := rfl
@[simp] theorem nextDraw_dcm (s : State) : s.nextDraw.dcm = s.dcm := rfl
@[simp] theorem nextDraw_chans (s : State) : s.nextDraw.chans = s.chans := rfl
@[simp] theorem nextDraw_me (s : State) : s.nextDraw.me = s.me := rfl
@[simp] theorem nextDraw_sl (s : State) : s.nextDraw.sl = s.sl := rfl
@[simp] theorem nextDraw_bus (s : State) : s.nextDraw.bus = s.bus := rfl
@[simp] theorem nextDraw_inp (s : State) : s.nextDraw.inp = s.inp := rfl
@[simp] theorem nextDraw_mem (s : State) : s.nextDraw.mem = s.mem := rfl
@[simp] theorem nextDraw_haz (s : State) : s.nextDraw.haz = s.haz := rfl
@[simp] theorem nextDraw_trace (s : State) : s.nextDraw.trace = s.trace := rfl
@[simp] theorem nextDraw_fg (s : State) : s.nextDraw.fg = s.fg := rfl
@[simp] theorem nextDraw_int (s : State) : s.nextDraw.int = s.int := rfl
@[simp] theorem nextDraw_cur (s : State) : s.nextDraw.cur = s.cur := rfl
@[simp] theorem nextDraw_sched (s : State) : s.nextDraw.sched = s.sched := rfl
@[simp] theorem nextDraw_draws (s : State) : s.nextDraw.draws = s.draws + 1 := rfl

/-! ### `record` -/
@[simp] theorem record_par (s : State) (e : Rec) : (s.record e).par = s.par := rfl
@[simp] theorem record_dcm (s : State) (e : Rec) : (s.record e).dcm = s.dcm := rfl
@[simp] theorem record_chans (s : State) (e : Rec) : (s.record e).chans = s.chans := rfl
@[simp] theorem record_me (s : State) (e : Rec) : (s.record e).me = s.me := rfl
@[simp] theorem record_sl (s : State) (e : Rec) : (s.record e).sl = s.sl := rfl
@[simp] theorem record_bus (s : State) (e : Rec) : (s.record e).bus = s.bus := rfl
@[simp] theorem record_inp (s : State) (e : Rec) : (s.record e).inp = s.inp := rfl
@[simp] theorem record_mem (s : State) (e : Rec) : (s.record e).mem = s.mem := rfl
@[simp] theorem record_haz (s : State) (e : Rec) : (s.record e).haz = s.haz := rfl
@[simp] theorem record_trace (s : State) (e : Rec) : (s.record e).trace = s.trace ++ [e] := rfl
@[simp] theorem record_fg (s : State) (e : Rec) : (s.record e).fg = s.fg := rfl
@[simp] theorem record_int (s : State) (e : Rec) : (s.record e).int = s.int := rfl
@[simp] theorem record_cur (s : State) (e : Rec) : (s.record e).cur = s.cur := rfl
@[simp] theorem record_sched (s : State) (e : Rec) : (s.record e).sched = s.sched := rfl
@[simp] theorem record_draws (s : State) (e : Rec) : (s.record e).draws = s.draws := rfl

/-! ### `setCh` -/
@[simp] theorem setCh_par (s : State) (c : ChIdx) (x : Chan) : (s.setCh c x).par = s.par := rfl
@[simp] theorem setCh_dcm (s : State) (c : ChIdx) (x : Chan) : (s.setCh c x).dcm = s.dcm := rfl
@[simp] theorem setCh_chans (s : State) (c : ChIdx) (x : Chan) : (s.setCh c x).chans = s.chans.set c.toNat x := rfl
@[simp] theorem setCh_me (s : State) (c : ChIdx) (x : Chan) : (s.setCh c x).me = s.me := rfl
@[simp] theorem setCh_sl (s : State) (c : ChIdx) (x : Chan) : (s.setCh c x).sl = s.sl := rfl
@[simp] theorem setCh_bus (s : State) (c : ChIdx) (x : Chan) : (s.setCh c x).bus = s.bus := rfl
@[simp] theorem setCh_inp (s : State) (c : ChIdx) (x : Chan) : (s.setCh c x).inp = s.inp := rfl
@[simp] theorem setCh_mem (s : State) (c : ChIdx) (x : Chan) : (s.setCh c x).mem = s.mem := rfl
@[simp] theorem setCh_haz (s : State) (c : ChIdx) (x : Chan) : (s.setCh c x).haz = s.haz := rfl
@[simp] theorem setCh_trace (s : State) (c : ChIdx) (x : Chan) : (s.setCh c x).trace = s.trace := rfl
@[simp] theorem setCh_fg (s : State) (c : ChIdx) (x : Chan) : (s.setCh c x).fg = s.fg := rfl
@[simp] theorem setCh_int (s : State) (c : ChIdx) (x : Chan) : (s.setCh c x).int = s.int := rfl
@[simp] theorem setCh_cur (s : State) (c : ChIdx) (x : Chan) : (s.setCh c x).cur = s.cur := rfl
@[simp] theorem setCh_sched (s : State) (c : ChIdx) (x : Chan) : (s.setCh c x).sched = s.sched := rfl
@[simp] theorem setCh_draws (s : State) (c : ChIdx) (x : Chan) : (s.setCh c x).draws = s.draws := rfl

/-! ### `memWrite` -/
@[simp] theorem memWrite_par (s : State) (a n : Nat) (v : Word) : (s.memWrite a n v).par = s.par := rfl
@[simp] theorem memWrite_dcm (s : State) (a n : Nat) (v : Word) : (s.memWrite a n v).dcm = s.dcm := rfl
@[simp] theorem memWrite_chans (s : State) (a n : Nat) (v : Word) : (s.memWrite a n v).chans = s.chans := rfl
@[simp] theorem memWrite_me (s : State) (a n : Nat) (v : Word) : (s.memWrite a n v).me = s.me := rfl
@[simp] theorem memWrite_sl (s : State) (a n : Nat) (v : Word) : (s.memWrite a n v).sl = s.sl := rfl
@[simp] theorem memWrite_bus (s : State) (a n : Nat) (v : Word) : (s.memWrite a n v).bus = s.bus := rfl
@[simp] theorem memWrite_inp (s : State) (a n : Nat) (v : Word) : (s.memWrite a n v).inp = s.inp := rfl
@[simp] theorem memWrite_mem (s : State) (a n : Nat) (v : Word) : (s.memWrite a n v).mem = s.mem.writeLE a n v.toNat := rfl
@[simp] theorem memWrite_haz (s : State) (a n : Nat) (v : Word) : (s.memWrite a n v).haz = s.haz := rfl
@[simp] theorem memWrite_trace (s : State) (a n : Nat) (v : Word) : (s.memWrite a n v).trace = s.trace := rfl
@[simp] theorem memWrite_fg (s : State) (a n : Nat) (v : Word) : (s.memWrite a n v).fg = s.fg := rfl
@[simp] theorem memWrite_int (s : State) (a n : Nat) (v : Word) : (s.memWrite a n v).int = s.int := rfl
@[simp] theorem memWrite_cur (s : State) (a n : Nat) (v : Word) : (s.memWrite a n v).cur = s.cur := rfl
@[simp] theorem memWrite_sched (s : State) (a n : Nat) (v : Word) : (s.memWrite a n v).sched = s.sched := rfl
@[simp] theorem memWrite_draws (s : State) (a n : Nat) (v : Word) : (s.memWrite a n v).draws = s.draws := rfl

/-! ### `noteHaz` -/
@[simp] theorem noteHaz_par (s : State) (p q : Bool) : (s.noteHaz p q).par = s.par := rfl
@[simp] theorem noteHaz_dcm (s : State) (p q : Bool) : (s.noteHaz p q).dcm = s.dcm := rfl
@[simp] theorem noteHaz_chans (s : State) (p q : Bool) : (s.noteHaz p q).chans = s.chans := rfl
@[simp] theorem noteHaz_me (s : State) (p q : Bool) : (s.noteHaz p q).me = s.me := rfl
@[simp] theorem noteHaz_sl (s : State) (p q : Bool) : (s.noteHaz p q).sl = s.sl := rfl
@[simp] theorem noteHaz_bus (s : State) (p q : Bool) : (s.noteHaz p q).bus = s.bus := rfl
@[simp] theorem noteHaz_inp (s : State) (p q : Bool) : (s.noteHaz p q).inp = s.inp := rfl
@[simp] theorem noteHaz_mem (s : State) (p q : Bool) : (s.noteHaz p q).mem = s.mem := rfl
@[simp] theorem noteHaz_haz (s : State) (p q : Bool) : (s.noteHaz p q).haz = ⟨s.haz.descWrite || p, s.haz.bufferAlias || q⟩ := rfl
@[simp] theorem noteHaz_trace (s : State) (p q : Bool) : (s.noteHaz p q).trace = s.trace := rfl
@[simp] theorem noteHaz_fg (s : State) (p q : Bool) : (s.noteHaz p q).fg = s.fg := rfl
@[simp] theorem noteHaz_int (s : State) (p q : Bool) : (s.noteHaz p q).int = s.int := rfl
@[simp] theorem noteHaz_cur (s : State) (p q : Bool) : (s.noteHaz p q).cur = s.cur := rfl
@[simp] theorem noteHaz_sched (s : State) (p q : Bool) : (s.noteHaz p q).sched = s.sched := rfl
@[simp] theorem noteHaz_draws (s : State) (p q : Bool) : (s.noteHaz p q).draws = s.draws := rfl

/-! ### `noteArm` -/
@[simp] theorem noteArm_par (c : ChIdx) (s : State) : (noteArm c s).par = s.par := rfl
@[simp] theorem noteArm_dcm (c : ChIdx) (s : State) : (noteArm c s).dcm = s.dcm := rfl
@[simp] theorem noteArm_chans (c : ChIdx) (s : State) : (noteArm c s).chans = s.chans := rfl
@[simp] theorem noteArm_me (c : ChIdx) (s : State) : (noteArm c s).me = s.me := rfl
@[simp] theorem noteArm_sl (c : ChIdx) (s : State) : (noteArm c s).sl = s.sl := rfl
@[simp] theorem noteArm_bus (c : ChIdx) (s : State) : (noteArm c s).bus = s.bus := rfl
@[simp] theorem noteArm_inp (c : ChIdx) (s : State) : (noteArm c s).inp = s.inp := rfl
@[simp] theorem noteArm_mem (c : ChIdx) (s : State) : (noteArm c s).mem = s.mem := rfl
@[simp] theorem noteArm_haz (c : ChIdx) (s : State) : (noteArm c s).haz = ⟨s.haz.descWrite, s.haz.bufferAlias || s.armAliases c (s.ch c).dst⟩ := by
  simp [noteArm]
@[simp] theorem noteArm_trace (c : ChIdx) (s : State) : (noteArm c s).trace = s.trace := rfl
@[simp] theorem noteArm_fg (c : ChIdx) (s : State) : (noteArm c s).fg = s.fg := rfl
@[simp] theorem noteArm_int (c : ChIdx) (s : State) : (noteArm c s).int = s.int := rfl
@[simp] theorem noteArm_cur (c : ChIdx) (s : State) : (noteArm c s).cur = s.cur := rfl
@[simp] theorem noteArm_sched (c : ChIdx) (s : State) : (noteArm c s).sched = s.sched := rfl
@[simp] theorem noteArm_draws (c : ChIdx) (s : State) : (noteArm c s).draws = s.draws := rfl

/-! ### The master data port -/
@[simp] theorem portRead_par (s : State) : (portRead s).2.par = s.par := by
  by_cases h : s.me.full <;> simp [portRead, h]
@[simp] theorem portRead_dcm (s : State) : (portRead s).2.dcm = s.dcm := by
  by_cases h : s.me.full <;> simp [portRead, h]
@[simp] theorem portRead_chans (s : State) : (portRead s).2.chans = s.chans := by
  by_cases h : s.me.full <;> simp [portRead, h]
@[simp] theorem portRead_me (s : State) : (portRead s).2.me = { s.me with full := false, k := s.me.k + 1 } := rfl
@[simp] theorem portRead_sl (s : State) : (portRead s).2.sl = s.sl := by
  by_cases h : s.me.full <;> simp [portRead, h]
@[simp] theorem portRead_bus (s : State) : (portRead s).2.bus = s.bus := by
  by_cases h : s.me.full <;> simp [portRead, h]
@[simp] theorem portRead_inp (s : State) : (portRead s).2.inp = s.inp := by
  by_cases h : s.me.full <;> simp [portRead, h]
@[simp] theorem portRead_mem (s : State) : (portRead s).2.mem = s.mem := by
  by_cases h : s.me.full <;> simp [portRead, h]
@[simp] theorem portRead_haz (s : State) : (portRead s).2.haz = s.haz := by
  by_cases h : s.me.full <;> simp [portRead, h]
@[simp] theorem portRead_trace (s : State) : (portRead s).2.trace = s.trace := by
  by_cases h : s.me.full <;> simp [portRead, h]
@[simp] theorem portRead_fg (s : State) : (portRead s).2.fg = s.fg := by
  by_cases h : s.me.full <;> simp [portRead, h]
@[simp] theorem portRead_int (s : State) : (portRead s).2.int = s.int := by
  by_cases h : s.me.full <;> simp [portRead, h]
@[simp] theorem portRead_cur (s : State) : (portRead s).2.cur = s.cur := by
  by_cases h : s.me.full <;> simp [portRead, h]
@[simp] theorem portRead_sched (s : State) : (portRead s).2.sched = s.sched := by
  by_cases h : s.me.full <;> simp [portRead, h]
@[simp] theorem portRead_draws (s : State) : (portRead s).2.draws = (if s.me.full then s.draws else s.draws + 1) := by
  by_cases h : s.me.full <;> simp [portRead, h]
@[simp] theorem portRead_val (s : State) : (portRead s).1 = (portByte s).setWidth 32 := rfl
@[simp] theorem portByte_full (s : State) (h : s.me.full = true) : portByte s = s.me.dat := by simp [portByte, h]
@[simp] theorem portWrite_par (v : Word) (s : State) : (portWrite v s).par = s.par := rfl
@[simp] theorem portWrite_dcm (v : Word) (s : State) : (portWrite v s).dcm = s.dcm := rfl
@[simp] theorem portWrite_chans (v : Word) (s : State) : (portWrite v s).chans = s.chans := rfl
@[simp] theorem portWrite_me (v : Word) (s : State) : (portWrite v s).me = { s.me with dat := v.setWidth 8, full := true } := rfl
@[simp] theorem portWrite_sl (v : Word) (s : State) : (portWrite v s).sl = s.sl := rfl
@[simp] theorem portWrite_bus (v : Word) (s : State) : (portWrite v s).bus = s.bus := rfl
@[simp] theorem portWrite_inp (v : Word) (s : State) : (portWrite v s).inp = s.inp := rfl
@[simp] theorem portWrite_mem (v : Word) (s : State) : (portWrite v s).mem = s.mem := rfl
@[simp] theorem portWrite_haz (v : Word) (s : State) : (portWrite v s).haz = s.haz := rfl
@[simp] theorem portWrite_trace (v : Word) (s : State) : (portWrite v s).trace = s.trace := rfl
@[simp] theorem portWrite_fg (v : Word) (s : State) : (portWrite v s).fg = s.fg := rfl
@[simp] theorem portWrite_int (v : Word) (s : State) : (portWrite v s).int = s.int := rfl
@[simp] theorem portWrite_cur (v : Word) (s : State) : (portWrite v s).cur = s.cur := rfl
@[simp] theorem portWrite_sched (v : Word) (s : State) : (portWrite v s).sched = s.sched := rfl
@[simp] theorem portWrite_draws (v : Word) (s : State) : (portWrite v s).draws = s.draws := rfl

/-! ### `writeRow` -/
@[simp] theorem writeRow_par (s : State) (a : Nat) (r : Row) : (s.writeRow a r).par = s.par := by
  simp only [State.writeRow, memWrite_par]
@[simp] theorem writeRow_dcm (s : State) (a : Nat) (r : Row) : (s.writeRow a r).dcm = s.dcm := by
  simp only [State.writeRow, memWrite_dcm]
@[simp] theorem writeRow_chans (s : State) (a : Nat) (r : Row) : (s.writeRow a r).chans = s.chans := by
  simp only [State.writeRow, memWrite_chans]
@[simp] theorem writeRow_me (s : State) (a : Nat) (r : Row) : (s.writeRow a r).me = s.me := by
  simp only [State.writeRow, memWrite_me]
@[simp] theorem writeRow_sl (s : State) (a : Nat) (r : Row) : (s.writeRow a r).sl = s.sl := by
  simp only [State.writeRow, memWrite_sl]
@[simp] theorem writeRow_bus (s : State) (a : Nat) (r : Row) : (s.writeRow a r).bus = s.bus := by
  simp only [State.writeRow, memWrite_bus]
@[simp] theorem writeRow_inp (s : State) (a : Nat) (r : Row) : (s.writeRow a r).inp = s.inp := by
  simp only [State.writeRow, memWrite_inp]
@[simp] theorem writeRow_haz (s : State) (a : Nat) (r : Row) : (s.writeRow a r).haz = s.haz := by
  simp only [State.writeRow, memWrite_haz]
@[simp] theorem writeRow_trace (s : State) (a : Nat) (r : Row) : (s.writeRow a r).trace = s.trace := by
  simp only [State.writeRow, memWrite_trace]
@[simp] theorem writeRow_fg (s : State) (a : Nat) (r : Row) : (s.writeRow a r).fg = s.fg := by
  simp only [State.writeRow, memWrite_fg]
@[simp] theorem writeRow_int (s : State) (a : Nat) (r : Row) : (s.writeRow a r).int = s.int := by
  simp only [State.writeRow, memWrite_int]
@[simp] theorem writeRow_cur (s : State) (a : Nat) (r : Row) : (s.writeRow a r).cur = s.cur := by
  simp only [State.writeRow, memWrite_cur]
@[simp] theorem writeRow_sched (s : State) (a : Nat) (r : Row) : (s.writeRow a r).sched = s.sched := by
  simp only [State.writeRow, memWrite_sched]
@[simp] theorem writeRow_draws (s : State) (a : Nat) (r : Row) : (s.writeRow a r).draws = s.draws := by
  simp only [State.writeRow, memWrite_draws]

/-! ### `setCtx` -/
@[simp] theorem setCtx_par (s : State) (c : Ctx) (h : HostCtx) : (s.setCtx c h).par = s.par := by cases c <;> rfl
@[simp] theorem setCtx_dcm (s : State) (c : Ctx) (h : HostCtx) : (s.setCtx c h).dcm = s.dcm := by cases c <;> rfl
@[simp] theorem setCtx_chans (s : State) (c : Ctx) (h : HostCtx) : (s.setCtx c h).chans = s.chans := by cases c <;> rfl
@[simp] theorem setCtx_me (s : State) (c : Ctx) (h : HostCtx) : (s.setCtx c h).me = s.me := by cases c <;> rfl
@[simp] theorem setCtx_sl (s : State) (c : Ctx) (h : HostCtx) : (s.setCtx c h).sl = s.sl := by cases c <;> rfl
@[simp] theorem setCtx_bus (s : State) (c : Ctx) (h : HostCtx) : (s.setCtx c h).bus = s.bus := by cases c <;> rfl
@[simp] theorem setCtx_inp (s : State) (c : Ctx) (h : HostCtx) : (s.setCtx c h).inp = s.inp := by cases c <;> rfl
@[simp] theorem setCtx_mem (s : State) (c : Ctx) (h : HostCtx) : (s.setCtx c h).mem = s.mem := by cases c <;> rfl
@[simp] theorem setCtx_haz (s : State) (c : Ctx) (h : HostCtx) : (s.setCtx c h).haz = s.haz := by cases c <;> rfl
@[simp] theorem setCtx_trace (s : State) (c : Ctx) (h : HostCtx) : (s.setCtx c h).trace = s.trace := by cases c <;> rfl
@[simp] theorem setCtx_cur (s : State) (c : Ctx) (h : HostCtx) : (s.setCtx c h).cur = s.cur := by cases c <;> rfl
@[simp] theorem setCtx_sched (s : State) (c : Ctx) (h : HostCtx) : (s.setCtx c h).sched = s.sched := by cases c <;> rfl
@[simp] theorem setCtx_draws (s : State) (c : Ctx) (h : HostCtx) : (s.setCtx c h).draws = s.draws := by cases c <;> rfl

/-! ### `setHold` -/
@[simp] theorem setHold_par (s : State) (c : Ctx) (h : Option Hold) : (s.setHold c h).par = s.par := by cases c <;> rfl
@[simp] theorem setHold_dcm (s : State) (c : Ctx) (h : Option Hold) : (s.setHold c h).dcm = s.dcm := by cases c <;> rfl
@[simp] theorem setHold_chans (s : State) (c : Ctx) (h : Option Hold) : (s.setHold c h).chans = s.chans := by cases c <;> rfl
@[simp] theorem setHold_me (s : State) (c : Ctx) (h : Option Hold) : (s.setHold c h).me = s.me := by cases c <;> rfl
@[simp] theorem setHold_sl (s : State) (c : Ctx) (h : Option Hold) : (s.setHold c h).sl = s.sl := by cases c <;> rfl
@[simp] theorem setHold_bus (s : State) (c : Ctx) (h : Option Hold) : (s.setHold c h).bus = s.bus := by cases c <;> rfl
@[simp] theorem setHold_inp (s : State) (c : Ctx) (h : Option Hold) : (s.setHold c h).inp = s.inp := by cases c <;> rfl
@[simp] theorem setHold_mem (s : State) (c : Ctx) (h : Option Hold) : (s.setHold c h).mem = s.mem := by cases c <;> rfl
@[simp] theorem setHold_haz (s : State) (c : Ctx) (h : Option Hold) : (s.setHold c h).haz = s.haz := by cases c <;> rfl
@[simp] theorem setHold_trace (s : State) (c : Ctx) (h : Option Hold) : (s.setHold c h).trace = s.trace := by cases c <;> rfl
@[simp] theorem setHold_cur (s : State) (c : Ctx) (h : Option Hold) : (s.setHold c h).cur = s.cur := by cases c <;> rfl
@[simp] theorem setHold_sched (s : State) (c : Ctx) (h : Option Hold) : (s.setHold c h).sched = s.sched := by cases c <;> rfl
@[simp] theorem setHold_draws (s : State) (c : Ctx) (h : Option Hold) : (s.setHold c h).draws = s.draws := by cases c <;> rfl

/-! ### `appendPacket` -/
@[simp] theorem appendPacket_par (s : State) (c : Ctx) (p : Packet) : (s.appendPacket c p).par = s.par := by cases c <;> rfl
@[simp] theorem appendPacket_dcm (s : State) (c : Ctx) (p : Packet) : (s.appendPacket c p).dcm = s.dcm := by cases c <;> rfl
@[simp] theorem appendPacket_chans (s : State) (c : Ctx) (p : Packet) : (s.appendPacket c p).chans = s.chans := by cases c <;> rfl
@[simp] theorem appendPacket_me (s : State) (c : Ctx) (p : Packet) : (s.appendPacket c p).me = s.me := by cases c <;> rfl
@[simp] theorem appendPacket_sl (s : State) (c : Ctx) (p : Packet) : (s.appendPacket c p).sl = s.sl := by cases c <;> rfl
@[simp] theorem appendPacket_bus (s : State) (c : Ctx) (p : Packet) : (s.appendPacket c p).bus = s.bus := by cases c <;> rfl
@[simp] theorem appendPacket_inp (s : State) (c : Ctx) (p : Packet) : (s.appendPacket c p).inp = s.inp := by cases c <;> rfl
@[simp] theorem appendPacket_mem (s : State) (c : Ctx) (p : Packet) : (s.appendPacket c p).mem = s.mem := by cases c <;> rfl
@[simp] theorem appendPacket_haz (s : State) (c : Ctx) (p : Packet) : (s.appendPacket c p).haz = s.haz := by cases c <;> rfl
@[simp] theorem appendPacket_trace (s : State) (c : Ctx) (p : Packet) : (s.appendPacket c p).trace = s.trace := by cases c <;> rfl
@[simp] theorem appendPacket_cur (s : State) (c : Ctx) (p : Packet) : (s.appendPacket c p).cur = s.cur := by cases c <;> rfl
@[simp] theorem appendPacket_sched (s : State) (c : Ctx) (p : Packet) : (s.appendPacket c p).sched = s.sched := by cases c <;> rfl
@[simp] theorem appendPacket_draws (s : State) (c : Ctx) (p : Packet) : (s.appendPacket c p).draws = s.draws := by cases c <;> rfl
@[simp] theorem appendPacket_ctx (s : State) (c : Ctx) (p : Packet) :
    (s.appendPacket c p).ctx c = ⟨(s.ctx c).prog ++ [p], (s.ctx c).hold⟩ := by cases c <;> rfl
@[simp] theorem appendPacket_ctx_other (s : State) (c d : Ctx) (p : Packet) (h : d ≠ c) :
    (s.appendPacket c p).ctx d = s.ctx d := by cases c <;> cases d <;> first | rfl | exact absurd rfl h

@[simp] theorem setCtx_fg_fg (s : State) (h : HostCtx) : (s.setCtx .fg h).fg = h := rfl
@[simp] theorem setCtx_fg_int (s : State) (h : HostCtx) : (s.setCtx .fg h).int = s.int := rfl
@[simp] theorem setCtx_int_int (s : State) (h : HostCtx) : (s.setCtx .int h).int = h := rfl
@[simp] theorem setCtx_int_fg (s : State) (h : HostCtx) : (s.setCtx .int h).fg = s.fg := rfl
@[simp] theorem setHold_fg_prog (s : State) (c : Ctx) (h : Option Hold) : (s.setHold c h).fg.prog = s.fg.prog := by
  cases c <;> rfl
@[simp] theorem setHold_int_prog (s : State) (c : Ctx) (h : Option Hold) : (s.setHold c h).int.prog = s.int.prog := by
  cases c <;> rfl
@[simp] theorem setHold_fg_hold (s : State) (h : Option Hold) : (s.setHold .fg h).fg.hold = h := rfl
@[simp] theorem setHold_fg_int (s : State) (h : Option Hold) : (s.setHold .fg h).int = s.int := rfl
@[simp] theorem setHold_int_hold (s : State) (h : Option Hold) : (s.setHold .int h).int.hold = h := rfl
@[simp] theorem setHold_int_fg (s : State) (h : Option Hold) : (s.setHold .int h).fg = s.fg := rfl

/-! ### Readings that depend on some fields only -/

theorem ch_congr {s t : State} (h : t.chans = s.chans) (c : ChIdx) : t.ch c = s.ch c := by
  simp [State.ch, h]

theorem nCh_congr {s t : State} (h : t.chans = s.chans) : t.nCh = s.nCh := by
  simp [State.nCh, h]

/-- The registers of a channel after one channel has been written. -/
theorem ch_setCh (s : State) (c d : ChIdx) (x : Chan) :
    (s.setCh c x).ch d = if d = c ∧ c.toNat < s.nCh then x else s.ch d := by
  simp only [State.ch, setCh_chans, State.nCh, List.getD_eq_getElem?_getD, List.getElem?_set]
  by_cases hd : d = c
  · subst hd
    by_cases hn : d.toNat < s.chans.length <;> simp [hn]
  · have : c.toNat ≠ d.toNat := fun h => hd (BitVec.eq_of_toNat_eq h.symm)
    simp [hd, this]

theorem ch_setCh_same (s : State) (c : ChIdx) (x : Chan) (h : c.toNat < s.nCh) : (s.setCh c x).ch c = x := by
  simp [ch_setCh, h]

theorem ch_setCh_other (s : State) (c d : ChIdx) (x : Chan) (h : d ≠ c) : (s.setCh c x).ch d = s.ch d := by
  simp [ch_setCh, h]

@[simp] theorem nCh_setCh (s : State) (c : ChIdx) (x : Chan) : (s.setCh c x).nCh = s.nCh := by
  simp [State.nCh]

/-- A channel that does not exist reads as one after reset. -/
theorem ch_absent (s : State) (c : ChIdx) (h : s.nCh ≤ c.toNat) : s.ch c = Chan.reset := by
  simp [State.ch, State.nCh] at *
  simp [List.getElem?_eq_none h]

/-- A channel that is not as after reset exists. -/
theorem exists_of_own (s : State) (c : ChIdx) (h : (s.ch c).own ≠ .free) : c.toNat < s.nCh := by
  by_contra hn
  exact h (by rw [ch_absent s c (by omega)]; rfl)

theorem chExists_iff (s : State) (c : ChIdx) : s.chExists c = true ↔ c.toNat < s.nCh := by
  simp [State.chExists]

end Sys2Proof.Machine
end

