-- ==== Sys2Proof/Laws/Bus.lean ====
section
/-! SUPPORT. What each bus procedure and each small operation on a channel or the master can do: one lemma per field, so that
callers cite these and do not unfold the procedure (R282 to R287, R297, R298, R150, R157). -/

namespace Sys2Proof.Machine

/-! ### Event codes -/

/-- A code that is no fault code is one of the four normal ones (R29). -/
theorem normal_code {e : EvCode} (h : isFaultCode e = false) :
    e = evNone ∨ e = evAddrMatch ∨ e = evRxReady ∨ e = evTxReady := by
  revert h; revert e; decide

/-- A fault code is none of the normal ones (R29). -/
theorem fault_code {e : EvCode} (h : isFaultCode e = true) :
    e ≠ evNone ∧ e ≠ evAddrMatch ∧ e ≠ evRxReady ∧ e ≠ evTxReady := by
  revert h; revert e; decide

/-! ### `slaveLatch`: what it leaves alone -/
@[simp] theorem slaveLatch_par (s : State) (ev : EvCode) : (slaveLatch ev s).par = s.par := by
  simp only [slaveLatch]; repeat' split
  all_goals simp
@[simp] theorem slaveLatch_dcm (s : State) (ev : EvCode) : (slaveLatch ev s).dcm = s.dcm := by
  simp only [slaveLatch]; repeat' split
  all_goals simp
@[simp] theorem slaveLatch_inp (s : State) (ev : EvCode) : (slaveLatch ev s).inp = s.inp := by
  simp only [slaveLatch]; repeat' split
  all_goals simp
@[simp] theorem slaveLatch_mem (s : State) (ev : EvCode) : (slaveLatch ev s).mem = s.mem := by
  simp only [slaveLatch]; repeat' split
  all_goals simp
@[simp] theorem slaveLatch_haz (s : State) (ev : EvCode) : (slaveLatch ev s).haz = s.haz := by
  simp only [slaveLatch]; repeat' split
  all_goals simp
@[simp] theorem slaveLatch_fg (s : State) (ev : EvCode) : (slaveLatch ev s).fg = s.fg := by
  simp only [slaveLatch]; repeat' split
  all_goals simp
@[simp] theorem slaveLatch_int (s : State) (ev : EvCode) : (slaveLatch ev s).int = s.int := by
  simp only [slaveLatch]; repeat' split
  all_goals simp
@[simp] theorem slaveLatch_cur (s : State) (ev : EvCode) : (slaveLatch ev s).cur = s.cur := by
  simp only [slaveLatch]; repeat' split
  all_goals simp
@[simp] theorem slaveLatch_sched (s : State) (ev : EvCode) : (slaveLatch ev s).sched = s.sched := by
  simp only [slaveLatch]; repeat' split
  all_goals simp
@[simp] theorem slaveLatch_draws (s : State) (ev : EvCode) : (slaveLatch ev s).draws = s.draws := by
  simp only [slaveLatch]; repeat' split
  all_goals simp
@[simp] theorem slaveLatch_chans (s : State) (ev : EvCode) : (slaveLatch ev s).chans = s.chans := by
  simp only [slaveLatch]; repeat' split
  all_goals simp
@[simp] theorem slaveLatch_me (s : State) (ev : EvCode) : (slaveLatch ev s).me = s.me := by
  simp only [slaveLatch]; repeat' split
  all_goals simp
@[simp] theorem slaveLatch_bus (s : State) (ev : EvCode) : (slaveLatch ev s).bus = s.bus := by
  simp only [slaveLatch]; repeat' split
  all_goals simp
@[simp] theorem slaveLatch_trace (s : State) (ev : EvCode) : (slaveLatch ev s).trace = s.trace := by
  simp only [slaveLatch]; repeat' split
  all_goals simp

/-! ### `driveAddress`: what it leaves alone -/
@[simp] theorem driveAddress_par (s : State) (i : Initiator) (ab : Byte) (pr : Bool) : (driveAddress i ab pr s).par = s.par := by
  simp only [driveAddress]; repeat' split
  all_goals simp
@[simp] theorem driveAddress_dcm (s : State) (i : Initiator) (ab : Byte) (pr : Bool) : (driveAddress i ab pr s).dcm = s.dcm := by
  simp only [driveAddress]; repeat' split
  all_goals simp
@[simp] theorem driveAddress_inp (s : State) (i : Initiator) (ab : Byte) (pr : Bool) : (driveAddress i ab pr s).inp = s.inp := by
  simp only [driveAddress]; repeat' split
  all_goals simp
@[simp] theorem driveAddress_mem (s : State) (i : Initiator) (ab : Byte) (pr : Bool) : (driveAddress i ab pr s).mem = s.mem := by
  simp only [driveAddress]; repeat' split
  all_goals simp
@[simp] theorem driveAddress_haz (s : State) (i : Initiator) (ab : Byte) (pr : Bool) : (driveAddress i ab pr s).haz = s.haz := by
  simp only [driveAddress]; repeat' split
  all_goals simp
@[simp] theorem driveAddress_fg (s : State) (i : Initiator) (ab : Byte) (pr : Bool) : (driveAddress i ab pr s).fg = s.fg := by
  simp only [driveAddress]; repeat' split
  all_goals simp
@[simp] theorem driveAddress_int (s : State) (i : Initiator) (ab : Byte) (pr : Bool) : (driveAddress i ab pr s).int = s.int := by
  simp only [driveAddress]; repeat' split
  all_goals simp
@[simp] theorem driveAddress_cur (s : State) (i : Initiator) (ab : Byte) (pr : Bool) : (driveAddress i ab pr s).cur = s.cur := by
  simp only [driveAddress]; repeat' split
  all_goals simp
@[simp] theorem driveAddress_sched (s : State) (i : Initiator) (ab : Byte) (pr : Bool) : (driveAddress i ab pr s).sched = s.sched := by
  simp only [driveAddress]; repeat' split
  all_goals simp
@[simp] theorem driveAddress_draws (s : State) (i : Initiator) (ab : Byte) (pr : Bool) : (driveAddress i ab pr s).draws = s.draws := by
  simp only [driveAddress]; repeat' split
  all_goals simp
@[simp] theorem driveAddress_chans (s : State) (i : Initiator) (ab : Byte) (pr : Bool) : (driveAddress i ab pr s).chans = s.chans := by
  simp only [driveAddress]; repeat' split
  all_goals simp
@[simp] theorem driveAddress_me (s : State) (i : Initiator) (ab : Byte) (pr : Bool) : (driveAddress i ab pr s).me = s.me := by
  simp only [driveAddress]; repeat' split
  all_goals simp

/-! ### `afterAddrAck`: what it leaves alone -/
@[simp] theorem afterAddrAck_par (s : State) : (afterAddrAck s).par = s.par := by
  simp only [afterAddrAck]; repeat' split
  all_goals simp
@[simp] theorem afterAddrAck_dcm (s : State) : (afterAddrAck s).dcm = s.dcm := by
  simp only [afterAddrAck]; repeat' split
  all_goals simp
@[simp] theorem afterAddrAck_inp (s : State) : (afterAddrAck s).inp = s.inp := by
  simp only [afterAddrAck]; repeat' split
  all_goals simp
@[simp] theorem afterAddrAck_mem (s : State) : (afterAddrAck s).mem = s.mem := by
  simp only [afterAddrAck]; repeat' split
  all_goals simp
@[simp] theorem afterAddrAck_haz (s : State) : (afterAddrAck s).haz = s.haz := by
  simp only [afterAddrAck]; repeat' split
  all_goals simp
@[simp] theorem afterAddrAck_fg (s : State) : (afterAddrAck s).fg = s.fg := by
  simp only [afterAddrAck]; repeat' split
  all_goals simp
@[simp] theorem afterAddrAck_int (s : State) : (afterAddrAck s).int = s.int := by
  simp only [afterAddrAck]; repeat' split
  all_goals simp
@[simp] theorem afterAddrAck_cur (s : State) : (afterAddrAck s).cur = s.cur := by
  simp only [afterAddrAck]; repeat' split
  all_goals simp
@[simp] theorem afterAddrAck_sched (s : State) : (afterAddrAck s).sched = s.sched := by
  simp only [afterAddrAck]; repeat' split
  all_goals simp
@[simp] theorem afterAddrAck_draws (s : State) : (afterAddrAck s).draws = s.draws := by
  simp only [afterAddrAck]; repeat' split
  all_goals simp
@[simp] theorem afterAddrAck_chans (s : State) : (afterAddrAck s).chans = s.chans := by
  simp only [afterAddrAck]; repeat' split
  all_goals simp
@[simp] theorem afterAddrAck_trace (s : State) : (afterAddrAck s).trace = s.trace := by
  simp only [afterAddrAck]; repeat' split
  all_goals simp

/-! ### `afterAddrNack`: what it leaves alone -/
@[simp] theorem afterAddrNack_par (s : State) (d : Driver) : (afterAddrNack d s).par = s.par := rfl
@[simp] theorem afterAddrNack_dcm (s : State) (d : Driver) : (afterAddrNack d s).dcm = s.dcm := rfl
@[simp] theorem afterAddrNack_inp (s : State) (d : Driver) : (afterAddrNack d s).inp = s.inp := rfl
@[simp] theorem afterAddrNack_mem (s : State) (d : Driver) : (afterAddrNack d s).mem = s.mem := rfl
@[simp] theorem afterAddrNack_haz (s : State) (d : Driver) : (afterAddrNack d s).haz = s.haz := rfl
@[simp] theorem afterAddrNack_fg (s : State) (d : Driver) : (afterAddrNack d s).fg = s.fg := rfl
@[simp] theorem afterAddrNack_int (s : State) (d : Driver) : (afterAddrNack d s).int = s.int := rfl
@[simp] theorem afterAddrNack_cur (s : State) (d : Driver) : (afterAddrNack d s).cur = s.cur := rfl
@[simp] theorem afterAddrNack_sched (s : State) (d : Driver) : (afterAddrNack d s).sched = s.sched := rfl
@[simp] theorem afterAddrNack_draws (s : State) (d : Driver) : (afterAddrNack d s).draws = s.draws := rfl
@[simp] theorem afterAddrNack_chans (s : State) (d : Driver) : (afterAddrNack d s).chans = s.chans := rfl
@[simp] theorem afterAddrNack_me (s : State) (d : Driver) : (afterAddrNack d s).me = s.me := rfl
@[simp] theorem afterAddrNack_sl (s : State) (d : Driver) : (afterAddrNack d s).sl = s.sl := rfl

/-! ### `driveData`: what it leaves alone -/
@[simp] theorem driveData_par (s : State) (i : Initiator) (b : Byte) : (driveData i b s).par = s.par := by
  simp only [driveData]; repeat' split
  all_goals simp
@[simp] theorem driveData_dcm (s : State) (i : Initiator) (b : Byte) : (driveData i b s).dcm = s.dcm := by
  simp only [driveData]; repeat' split
  all_goals simp
@[simp] theorem driveData_inp (s : State) (i : Initiator) (b : Byte) : (driveData i b s).inp = s.inp := by
  simp only [driveData]; repeat' split
  all_goals simp
@[simp] theorem driveData_mem (s : State) (i : Initiator) (b : Byte) : (driveData i b s).mem = s.mem := by
  simp only [driveData]; repeat' split
  all_goals simp
@[simp] theorem driveData_haz (s : State) (i : Initiator) (b : Byte) : (driveData i b s).haz = s.haz := by
  simp only [driveData]; repeat' split
  all_goals simp
@[simp] theorem driveData_fg (s : State) (i : Initiator) (b : Byte) : (driveData i b s).fg = s.fg := by
  simp only [driveData]; repeat' split
  all_goals simp
@[simp] theorem driveData_int (s : State) (i : Initiator) (b : Byte) : (driveData i b s).int = s.int := by
  simp only [driveData]; repeat' split
  all_goals simp
@[simp] theorem driveData_cur (s : State) (i : Initiator) (b : Byte) : (driveData i b s).cur = s.cur := by
  simp only [driveData]; repeat' split
  all_goals simp
@[simp] theorem driveData_sched (s : State) (i : Initiator) (b : Byte) : (driveData i b s).sched = s.sched := by
  simp only [driveData]; repeat' split
  all_goals simp
@[simp] theorem driveData_draws (s : State) (i : Initiator) (b : Byte) : (driveData i b s).draws = s.draws := by
  simp only [driveData]; repeat' split
  all_goals simp
@[simp] theorem driveData_chans (s : State) (i : Initiator) (b : Byte) : (driveData i b s).chans = s.chans := by
  simp only [driveData]; repeat' split
  all_goals simp
@[simp] theorem driveData_me (s : State) (i : Initiator) (b : Byte) : (driveData i b s).me = s.me := by
  simp only [driveData]; repeat' split
  all_goals simp

/-! ### `slaveAckData`: what it leaves alone -/
@[simp] theorem slaveAckData_par (s : State) : (slaveAckData s).par = s.par := by
  simp only [slaveAckData]; repeat' split
  all_goals simp
@[simp] theorem slaveAckData_dcm (s : State) : (slaveAckData s).dcm = s.dcm := by
  simp only [slaveAckData]; repeat' split
  all_goals simp
@[simp] theorem slaveAckData_inp (s : State) : (slaveAckData s).inp = s.inp := by
  simp only [slaveAckData]; repeat' split
  all_goals simp
@[simp] theorem slaveAckData_mem (s : State) : (slaveAckData s).mem = s.mem := by
  simp only [slaveAckData]; repeat' split
  all_goals simp
@[simp] theorem slaveAckData_haz (s : State) : (slaveAckData s).haz = s.haz := by
  simp only [slaveAckData]; repeat' split
  all_goals simp
@[simp] theorem slaveAckData_fg (s : State) : (slaveAckData s).fg = s.fg := by
  simp only [slaveAckData]; repeat' split
  all_goals simp
@[simp] theorem slaveAckData_int (s : State) : (slaveAckData s).int = s.int := by
  simp only [slaveAckData]; repeat' split
  all_goals simp
@[simp] theorem slaveAckData_cur (s : State) : (slaveAckData s).cur = s.cur := by
  simp only [slaveAckData]; repeat' split
  all_goals simp
@[simp] theorem slaveAckData_sched (s : State) : (slaveAckData s).sched = s.sched := by
  simp only [slaveAckData]; repeat' split
  all_goals simp
@[simp] theorem slaveAckData_draws (s : State) : (slaveAckData s).draws = s.draws := by
  simp only [slaveAckData]; repeat' split
  all_goals simp
@[simp] theorem slaveAckData_chans (s : State) : (slaveAckData s).chans = s.chans := by
  simp only [slaveAckData]; repeat' split
  all_goals simp
@[simp] theorem slaveAckData_me (s : State) : (slaveAckData s).me = s.me := by
  simp only [slaveAckData]; repeat' split
  all_goals simp
@[simp] theorem slaveAckData_sl (s : State) : (slaveAckData s).sl = s.sl := by
  simp only [slaveAckData]; repeat' split
  all_goals simp
@[simp] theorem slaveAckData_trace (s : State) : (slaveAckData s).trace = s.trace := by
  simp only [slaveAckData]; repeat' split
  all_goals simp

/-! ### `supplyData`: what it leaves alone -/
@[simp] theorem supplyData_par (s : State) (d : Driver) (b : Byte) : (supplyData d b s).par = s.par := by
  simp only [supplyData]; repeat' split
  all_goals simp
@[simp] theorem supplyData_dcm (s : State) (d : Driver) (b : Byte) : (supplyData d b s).dcm = s.dcm := by
  simp only [supplyData]; repeat' split
  all_goals simp
@[simp] theorem supplyData_inp (s : State) (d : Driver) (b : Byte) : (supplyData d b s).inp = s.inp := by
  simp only [supplyData]; repeat' split
  all_goals simp
@[simp] theorem supplyData_mem (s : State) (d : Driver) (b : Byte) : (supplyData d b s).mem = s.mem := by
  simp only [supplyData]; repeat' split
  all_goals simp
@[simp] theorem supplyData_haz (s : State) (d : Driver) (b : Byte) : (supplyData d b s).haz = s.haz := by
  simp only [supplyData]; repeat' split
  all_goals simp
@[simp] theorem supplyData_fg (s : State) (d : Driver) (b : Byte) : (supplyData d b s).fg = s.fg := by
  simp only [supplyData]; repeat' split
  all_goals simp
@[simp] theorem supplyData_int (s : State) (d : Driver) (b : Byte) : (supplyData d b s).int = s.int := by
  simp only [supplyData]; repeat' split
  all_goals simp
@[simp] theorem supplyData_cur (s : State) (d : Driver) (b : Byte) : (supplyData d b s).cur = s.cur := by
  simp only [supplyData]; repeat' split
  all_goals simp
@[simp] theorem supplyData_sched (s : State) (d : Driver) (b : Byte) : (supplyData d b s).sched = s.sched := by
  simp only [supplyData]; repeat' split
  all_goals simp
@[simp] theorem supplyData_draws (s : State) (d : Driver) (b : Byte) : (supplyData d b s).draws = s.draws := by
  simp only [supplyData]; repeat' split
  all_goals simp
@[simp] theorem supplyData_chans (s : State) (d : Driver) (b : Byte) : (supplyData d b s).chans = s.chans := by
  simp only [supplyData]; repeat' split
  all_goals simp
@[simp] theorem supplyData_sl (s : State) (d : Driver) (b : Byte) : (supplyData d b s).sl = s.sl := by
  simp only [supplyData]; repeat' split
  all_goals simp

/-! ### `busStop`: what it leaves alone -/
@[simp] theorem busStop_par (s : State) (d : Driver) : (busStop d s).par = s.par := rfl
@[simp] theorem busStop_dcm (s : State) (d : Driver) : (busStop d s).dcm = s.dcm := rfl
@[simp] theorem busStop_inp (s : State) (d : Driver) : (busStop d s).inp = s.inp := rfl
@[simp] theorem busStop_mem (s : State) (d : Driver) : (busStop d s).mem = s.mem := rfl
@[simp] theorem busStop_haz (s : State) (d : Driver) : (busStop d s).haz = s.haz := rfl
@[simp] theorem busStop_fg (s : State) (d : Driver) : (busStop d s).fg = s.fg := rfl
@[simp] theorem busStop_int (s : State) (d : Driver) : (busStop d s).int = s.int := rfl
@[simp] theorem busStop_cur (s : State) (d : Driver) : (busStop d s).cur = s.cur := rfl
@[simp] theorem busStop_sched (s : State) (d : Driver) : (busStop d s).sched = s.sched := rfl
@[simp] theorem busStop_draws (s : State) (d : Driver) : (busStop d s).draws = s.draws := rfl
@[simp] theorem busStop_chans (s : State) (d : Driver) : (busStop d s).chans = s.chans := rfl
@[simp] theorem busStop_me (s : State) (d : Driver) : (busStop d s).me = s.me := rfl

/-! ### `readAck`: what it leaves alone -/
@[simp] theorem readAck_par (s : State) (d : Driver) : (readAck d s).par = s.par := by
  simp only [readAck]; repeat' split
  all_goals simp
@[simp] theorem readAck_dcm (s : State) (d : Driver) : (readAck d s).dcm = s.dcm := by
  simp only [readAck]; repeat' split
  all_goals simp
@[simp] theorem readAck_inp (s : State) (d : Driver) : (readAck d s).inp = s.inp := by
  simp only [readAck]; repeat' split
  all_goals simp
@[simp] theorem readAck_mem (s : State) (d : Driver) : (readAck d s).mem = s.mem := by
  simp only [readAck]; repeat' split
  all_goals simp
@[simp] theorem readAck_haz (s : State) (d : Driver) : (readAck d s).haz = s.haz := by
  simp only [readAck]; repeat' split
  all_goals simp
@[simp] theorem readAck_fg (s : State) (d : Driver) : (readAck d s).fg = s.fg := by
  simp only [readAck]; repeat' split
  all_goals simp
@[simp] theorem readAck_int (s : State) (d : Driver) : (readAck d s).int = s.int := by
  simp only [readAck]; repeat' split
  all_goals simp
@[simp] theorem readAck_cur (s : State) (d : Driver) : (readAck d s).cur = s.cur := by
  simp only [readAck]; repeat' split
  all_goals simp
@[simp] theorem readAck_sched (s : State) (d : Driver) : (readAck d s).sched = s.sched := by
  simp only [readAck]; repeat' split
  all_goals simp
@[simp] theorem readAck_draws (s : State) (d : Driver) : (readAck d s).draws = s.draws := by
  simp only [readAck]; repeat' split
  all_goals simp
@[simp] theorem readAck_chans (s : State) (d : Driver) : (readAck d s).chans = s.chans := by
  simp only [readAck]; repeat' split
  all_goals simp
@[simp] theorem readAck_me (s : State) (d : Driver) : (readAck d s).me = s.me := by
  simp only [readAck]; repeat' split
  all_goals simp

/-! ### `abort`: what it leaves alone -/
@[simp] theorem abort_par (s : State) (c : ChIdx) : (abort c s).par = s.par := rfl
@[simp] theorem abort_dcm (s : State) (c : ChIdx) : (abort c s).dcm = s.dcm := rfl
@[simp] theorem abort_inp (s : State) (c : ChIdx) : (abort c s).inp = s.inp := rfl
@[simp] theorem abort_mem (s : State) (c : ChIdx) : (abort c s).mem = s.mem := rfl
@[simp] theorem abort_haz (s : State) (c : ChIdx) : (abort c s).haz = s.haz := rfl
@[simp] theorem abort_fg (s : State) (c : ChIdx) : (abort c s).fg = s.fg := rfl
@[simp] theorem abort_int (s : State) (c : ChIdx) : (abort c s).int = s.int := rfl
@[simp] theorem abort_cur (s : State) (c : ChIdx) : (abort c s).cur = s.cur := rfl
@[simp] theorem abort_sched (s : State) (c : ChIdx) : (abort c s).sched = s.sched := rfl
@[simp] theorem abort_draws (s : State) (c : ChIdx) : (abort c s).draws = s.draws := rfl
@[simp] theorem abort_me (s : State) (c : ChIdx) : (abort c s).me = s.me := rfl
@[simp] theorem abort_sl (s : State) (c : ChIdx) : (abort c s).sl = s.sl := rfl
@[simp] theorem abort_bus (s : State) (c : ChIdx) : (abort c s).bus = s.bus := rfl
@[simp] theorem abort_trace (s : State) (c : ChIdx) : (abort c s).trace = s.trace := rfl

/-! ### `stopChannel`: what it leaves alone -/
@[simp] theorem stopChannel_par (s : State) (c : ChIdx) : (stopChannel c s).par = s.par := rfl
@[simp] theorem stopChannel_dcm (s : State) (c : ChIdx) : (stopChannel c s).dcm = s.dcm := rfl
@[simp] theorem stopChannel_inp (s : State) (c : ChIdx) : (stopChannel c s).inp = s.inp := rfl
@[simp] theorem stopChannel_mem (s : State) (c : ChIdx) : (stopChannel c s).mem = s.mem := rfl
@[simp] theorem stopChannel_haz (s : State) (c : ChIdx) : (stopChannel c s).haz = s.haz := rfl
@[simp] theorem stopChannel_fg (s : State) (c : ChIdx) : (stopChannel c s).fg = s.fg := rfl
@[simp] theorem stopChannel_int (s : State) (c : ChIdx) : (stopChannel c s).int = s.int := rfl
@[simp] theorem stopChannel_cur (s : State) (c : ChIdx) : (stopChannel c s).cur = s.cur := rfl
@[simp] theorem stopChannel_sched (s : State) (c : ChIdx) : (stopChannel c s).sched = s.sched := rfl
@[simp] theorem stopChannel_draws (s : State) (c : ChIdx) : (stopChannel c s).draws = s.draws := rfl
@[simp] theorem stopChannel_me (s : State) (c : ChIdx) : (stopChannel c s).me = s.me := rfl
@[simp] theorem stopChannel_sl (s : State) (c : ChIdx) : (stopChannel c s).sl = s.sl := rfl
@[simp] theorem stopChannel_bus (s : State) (c : ChIdx) : (stopChannel c s).bus = s.bus := rfl
@[simp] theorem stopChannel_trace (s : State) (c : ChIdx) : (stopChannel c s).trace = s.trace := rfl

/-! ### `masterFault`: what it leaves alone -/
@[simp] theorem masterFault_par (s : State) (f : MFault) : (masterFault f s).par = s.par := by
  simp [masterFault]
@[simp] theorem masterFault_dcm (s : State) (f : MFault) : (masterFault f s).dcm = s.dcm := by
  simp [masterFault]
@[simp] theorem masterFault_inp (s : State) (f : MFault) : (masterFault f s).inp = s.inp := by
  simp [masterFault]
@[simp] theorem masterFault_mem (s : State) (f : MFault) : (masterFault f s).mem = s.mem := by
  simp [masterFault]
@[simp] theorem masterFault_haz (s : State) (f : MFault) : (masterFault f s).haz = s.haz := by
  simp [masterFault]
@[simp] theorem masterFault_fg (s : State) (f : MFault) : (masterFault f s).fg = s.fg := by
  simp [masterFault]
@[simp] theorem masterFault_int (s : State) (f : MFault) : (masterFault f s).int = s.int := by
  simp [masterFault]
@[simp] theorem masterFault_cur (s : State) (f : MFault) : (masterFault f s).cur = s.cur := by
  simp [masterFault]
@[simp] theorem masterFault_sched (s : State) (f : MFault) : (masterFault f s).sched = s.sched := by
  simp [masterFault]
@[simp] theorem masterFault_draws (s : State) (f : MFault) : (masterFault f s).draws = s.draws := by
  simp [masterFault]
@[simp] theorem masterFault_sl (s : State) (f : MFault) : (masterFault f s).sl = s.sl := by
  simp [masterFault]
@[simp] theorem masterFault_bus (s : State) (f : MFault) : (masterFault f s).bus = s.bus := by
  simp [masterFault]
@[simp] theorem masterFault_trace (s : State) (f : MFault) : (masterFault f s).trace = s.trace := by
  simp [masterFault]

/-! ### `masterDone`: what it leaves alone -/
@[simp] theorem masterDone_par (s : State) : (masterDone s).par = s.par := rfl
@[simp] theorem masterDone_dcm (s : State) : (masterDone s).dcm = s.dcm := rfl
@[simp] theorem masterDone_inp (s : State) : (masterDone s).inp = s.inp := rfl
@[simp] theorem masterDone_mem (s : State) : (masterDone s).mem = s.mem := rfl
@[simp] theorem masterDone_haz (s : State) : (masterDone s).haz = s.haz := rfl
@[simp] theorem masterDone_fg (s : State) : (masterDone s).fg = s.fg := rfl
@[simp] theorem masterDone_int (s : State) : (masterDone s).int = s.int := rfl
@[simp] theorem masterDone_cur (s : State) : (masterDone s).cur = s.cur := rfl
@[simp] theorem masterDone_sched (s : State) : (masterDone s).sched = s.sched := rfl
@[simp] theorem masterDone_draws (s : State) : (masterDone s).draws = s.draws := rfl
@[simp] theorem masterDone_chans (s : State) : (masterDone s).chans = s.chans := rfl
@[simp] theorem masterDone_sl (s : State) : (masterDone s).sl = s.sl := rfl
@[simp] theorem masterDone_bus (s : State) : (masterDone s).bus = s.bus := rfl
@[simp] theorem masterDone_trace (s : State) : (masterDone s).trace = s.trace := rfl

/-! ### What they do -/

/-- `SlaveLatch` puts its event in the indicator unless the slave is in Fault or a fault code is pending (R282). -/
theorem slaveLatch_sl (s : State) (ev : EvCode) :
    (slaveLatch ev s).sl =
      if s.sl.fatal = false ∧ isFaultCode s.sl.pend = false then { s.sl with pend := ev } else s.sl := by
  unfold slaveLatch
  by_cases h1 : s.sl.fatal <;> by_cases h2 : isFaultCode s.sl.pend <;> simp [h1, h2]

/-- Is the own slave addressed by this byte (R283)? -/
def ownAddressed (s : State) (ab : Byte) : Prop := s.sl.en = true ∧ addressOf ab = s.sl.addr

theorem driveAddress_bus_own (s : State) (i : Initiator) (ab : Byte) (pr : Bool) (h : ownAddressed s ab) :
    (driveAddress i ab pr s).bus = ⟨.addr, i, .ownSlv, directionOf ab, ab⟩ := by
  simp [driveAddress, h.1, h.2]

theorem driveAddress_bus_ext (s : State) (i : Initiator) (ab : Byte) (pr : Bool) (h : ¬ ownAddressed s ab) :
    (driveAddress i ab pr s).bus = ⟨.addr, i, if pr = true then .extSlv else .none, directionOf ab, ab⟩ := by
  have h' : ¬ ((s.sl.en && decide (addressOf ab = s.sl.addr)) = true) := by simpa [ownAddressed] using h
  simp [driveAddress, h']

/-- The selection an address byte makes (R31, R283). -/
def selOf : Dir → Sel
  | .w => .selW
  | .r => .selR

theorem driveAddress_sl_own (s : State) (i : Initiator) (ab : Byte) (pr : Bool) (h : ownAddressed s ab) :
    (driveAddress i ab pr s).sl =
      if s.sl.fatal = false ∧ isFaultCode s.sl.pend = false then
        { s.sl with sel := selOf (directionOf ab), pend := evAddrMatch }
      else { s.sl with sel := selOf (directionOf ab) } := by
  simp only [driveAddress, h.1, h.2, decide_true, Bool.and_true, if_true, slaveLatch_sl, setSl_sl]
  cases directionOf ab <;> rfl

theorem driveAddress_sl_ext (s : State) (i : Initiator) (ab : Byte) (pr : Bool) (h : ¬ ownAddressed s ab) :
    (driveAddress i ab pr s).sl = { s.sl with sel := .nsel } := by
  have h' : ¬ ((s.sl.en && decide (addressOf ab = s.sl.addr)) = true) := by simpa [ownAddressed] using h
  simp [driveAddress, h']

/-- `DriveAddress` puts START and the address byte on the bus, whoever it addresses (R283). -/
theorem driveAddress_trace (s : State) (i : Initiator) (ab : Byte) (pr : Bool) :
    (driveAddress i ab pr s).trace =
      s.trace ++ [.sym .start (drv i), .sym (.addr (addressOf ab) (directionOf ab)) (drv i)] := by
  simp only [driveAddress]; repeat' split
  all_goals simp

/-- `AfterAddrAck` moves the bus out of B_ADDR by the direction, and nothing in another phase (R284). -/
theorem afterAddrAck_bus (s : State) :
    (afterAddrAck s).bus =
      if s.bus.phase = .addr then { s.bus with phase := (match s.bus.rw with | .w => .wIdle | .r => .rDatawait) } else s.bus := by
  by_cases h : s.bus.phase = .addr
  · cases h1 : s.bus.rw <;> cases h2 : s.bus.init <;> simp [afterAddrAck, h, h1, h2] <;> split <;> simp
  · simp [afterAddrAck, h]

/-- It is where the own master reaches the data phase (R201, R284). -/
theorem afterAddrAck_me (s : State) :
    (afterAddrAck s).me =
      if s.bus.phase = .addr ∧ s.bus.init = .own then { s.me with phase := .data } else s.me := by
  by_cases h : s.bus.phase = .addr
  · cases h1 : s.bus.rw <;> cases h2 : s.bus.init <;> simp [afterAddrAck, h, h1, h2] <;> split <;> simp
  · simp [afterAddrAck, h]

/-- In a read to the own slave it latches the first byte request (R284). -/
theorem afterAddrAck_sl (s : State) :
    (afterAddrAck s).sl =
      if s.bus.phase = .addr ∧ s.bus.rw = .r ∧ s.bus.tgt = .ownSlv then (slaveLatch evTxReady s).sl else s.sl := by
  by_cases h : s.bus.phase = .addr
  · cases h1 : s.bus.rw <;> cases h2 : s.bus.init <;> cases h3 : s.bus.tgt <;>
      by_cases h4 : s.sl.fatal = false ∧ isFaultCode s.sl.pend = false <;>
      simp [afterAddrAck, h, h1, h2, h3, slaveLatch_sl, h4]
  · simp [afterAddrAck, h]

@[simp] theorem afterAddrNack_bus (s : State) (d : Driver) :
    (afterAddrNack d s).bus = { s.bus with phase := .ended } := rfl

@[simp] theorem afterAddrNack_trace (s : State) (d : Driver) :
    (afterAddrNack d s).trace = s.trace ++ [.sym .nack d] := rfl

@[simp] theorem driveData_bus (s : State) (i : Initiator) (b : Byte) :
    (driveData i b s).bus = { s.bus with init := i, byte := b, phase := .wAckwait } := by
  simp only [driveData]; split <;> simp

@[simp] theorem driveData_trace (s : State) (i : Initiator) (b : Byte) :
    (driveData i b s).trace = s.trace ++ [.sym (.data b) (drv i)] := by
  simp only [driveData]; split <;> simp

/-- A byte driven to the own slave is in its receive register, latched or not (R286). -/
theorem driveData_sl (s : State) (i : Initiator) (b : Byte) :
    (driveData i b s).sl =
      if s.bus.tgt = .ownSlv then
        (if s.sl.fatal = false ∧ isFaultCode s.sl.pend = false then { s.sl with rxdat := b, pend := evRxReady }
         else { s.sl with rxdat := b })
      else s.sl := by
  by_cases h : s.bus.tgt = .ownSlv
  · by_cases h4 : s.sl.fatal = false ∧ isFaultCode s.sl.pend = false <;> simp [driveData, h, slaveLatch_sl, h4]
  · simp [driveData, h]

theorem slaveAckData_bus (s : State) :
    (slaveAckData s).bus = if s.bus.phase = .wAckwait then { s.bus with phase := .wIdle } else s.bus := by
  simp only [slaveAckData]; split <;> simp

theorem supplyData_bus (s : State) (d : Driver) (b : Byte) :
    (supplyData d b s).bus =
      if s.bus.phase = .rDatawait then { s.bus with byte := b, phase := .rAckwait } else s.bus := by
  by_cases h : s.bus.phase = .rDatawait
  · cases h1 : s.bus.init <;> simp [supplyData, h, h1]
  · simp [supplyData, h]

/-- When the own master reads, the byte lands in its data register in the same step (R287). -/
theorem supplyData_me (s : State) (d : Driver) (b : Byte) :
    (supplyData d b s).me =
      if s.bus.phase = .rDatawait ∧ s.bus.init = .own then { s.me with dat := b, full := true } else s.me := by
  by_cases h : s.bus.phase = .rDatawait
  · cases h1 : s.bus.init <;> simp [supplyData, h, h1]
  · simp [supplyData, h]

theorem supplyData_trace (s : State) (d : Driver) (b : Byte) :
    (supplyData d b s).trace =
      if s.bus.phase = .rDatawait then s.trace ++ [.sym (.data b) d] else s.trace := by
  by_cases h : s.bus.phase = .rDatawait
  · cases h1 : s.bus.init <;> simp [supplyData, h, h1]
  · simp [supplyData, h]

@[simp] theorem busStop_bus (s : State) (d : Driver) :
    (busStop d s).bus = { s.bus with phase := .idle, tgt := .none } := rfl

@[simp] theorem busStop_sl (s : State) (d : Driver) : (busStop d s).sl = { s.sl with sel := .nsel } := rfl

@[simp] theorem busStop_trace (s : State) (d : Driver) : (busStop d s).trace = s.trace ++ [.sym .stop d] := rfl

@[simp] theorem readAck_bus (s : State) (d : Driver) :
    (readAck d s).bus = { s.bus with phase := .rDatawait } := by
  simp only [readAck]; split <;> simp

@[simp] theorem readAck_trace (s : State) (d : Driver) :
    (readAck d s).trace = s.trace ++ [.sym .ack d] := by
  simp only [readAck]; split <;> simp

theorem readAck_sl (s : State) (d : Driver) :
    (readAck d s).sl = if s.bus.tgt = .ownSlv then (slaveLatch evTxReady s).sl else s.sl := by
  by_cases h : s.bus.tgt = .ownSlv
  · by_cases h4 : s.sl.fatal = false ∧ isFaultCode s.sl.pend = false <;> simp [readAck, h, slaveLatch_sl, h4]
  · simp [readAck, h]

@[simp] theorem masterDone_me (s : State) : (masterDone s).me = { s.me with phase := .done } := rfl

@[simp] theorem masterFault_me (s : State) (f : MFault) :
    (masterFault f s).me = { s.me with fault := f, phase := .done } := rfl

theorem masterFault_chans (s : State) (f : MFault) :
    (masterFault f s).chans = (stopChannel s.me.ch s).chans := rfl

end Sys2Proof.Machine
end

