-- ==== Sys2Proof/Laws/Encoding.lean ====
section
/-! SUPPORT. The fields of a command word built by the encoder (R101), and the words of the packet of an operation. -/

namespace Sys2Proof

@[simp] theorem opcField_commandWord (opc : BitVec 8) (ch : ChIdx) (imm : BitVec 16) :
    opcField (commandWord opc ch imm) = opc := by
  apply BitVec.eq_of_getLsbD_eq
  intro i hi
  simp only [opcField, commandWord, BitVec.getLsbD_extractLsb', BitVec.getLsbD_append]
  have h1 : ¬ (24 + i < 16) := by omega
  have h2 : ¬ (24 + i - 16 < 8) := by omega
  have h3 : 24 + i - 16 - 8 = i := by omega
  simp [hi, h1, h2, h3]

@[simp] theorem chField_commandWord (opc : BitVec 8) (ch : ChIdx) (imm : BitVec 16) :
    chField (commandWord opc ch imm) = ch := by
  apply BitVec.eq_of_getLsbD_eq
  intro i hi
  simp only [chField, commandWord, BitVec.getLsbD_extractLsb', BitVec.getLsbD_append]
  have h1 : ¬ (16 + i < 16) := by omega
  have h2 : 16 + i - 16 < 8 := by omega
  have h3 : 16 + i - 16 = i := by omega
  simp [hi, h3]

@[simp] theorem immField_commandWord (opc : BitVec 8) (ch : ChIdx) (imm : BitVec 16) :
    immField (commandWord opc ch imm) = imm := by
  apply BitVec.eq_of_getLsbD_eq
  intro i hi
  simp only [immField, commandWord, BitVec.getLsbD_extractLsb', BitVec.getLsbD_append]
  simp [hi]

end Sys2Proof
end

