-- ==== Sys2Proof/Laws/Memory.lean ====
section
/-! SUPPORT. The laws of memory: a read after a write, the frame of a write, and that every memory operation keeps the
canonical form (R71, R72). -/

namespace Sys2Proof.Machine

/-- A write leaves every other byte alone, in canonical form or not. -/
theorem read_write_other (m : Memory) (a x : Nat) (b : Byte) (h : x ≠ a) : (m.write a b).read x = m.read x := by
  induction m with
  | nil =>
    by_cases hb : b = Memory.blank
    · simp [Memory.write, hb]
    · simp [Memory.write, hb, Memory.read, Ne.symm h]
  | cons y rest ih =>
    simp only [Memory.write]
    split_ifs with h1 h2 h3 h4
    · rfl
    · simp [Memory.read, Ne.symm h]
    · have : y.1 ≠ x := by omega
      simp [Memory.read, this]
    · have : y.1 ≠ x := by omega
      simp [Memory.read, this, Ne.symm h]
    · by_cases hy : y.1 = x <;> simp [Memory.read, hy, ih]

/-- No entry of a canonical memory above its first key lies at or below it. -/
theorem read_below (m : Memory) (a : Nat) (h : ∀ x ∈ m, a < x.1) : m.read a = Memory.blank := by
  induction m with
  | nil => rfl
  | cons y rest ih =>
    have hy := h y (by simp)
    have : y.1 ≠ a := by omega
    simp [Memory.read, this, ih (fun x hx => h x (by simp [hx]))]

/-- A read after a write to the same byte gives the value written. -/
theorem read_write_same (m : Memory) (a : Nat) (b : Byte) (h : m.Pairwise (fun x y => x.1 < y.1)) :
    (m.write a b).read a = b := by
  induction m with
  | nil => by_cases hb : b = Memory.blank <;> simp [Memory.write, hb, Memory.read]
  | cons y rest ih =>
    rw [List.pairwise_cons] at h
    simp only [Memory.write]
    split_ifs with h1 h2 h3 h4
    · rw [h2]
      refine read_below _ _ (fun x hx => ?_)
      rcases List.mem_cons.1 hx with rfl | hx
      · exact h1
      · have := h.1 x hx
        omega
    · simp [Memory.read]
    · rw [h4, h3]
      exact read_below _ _ h.1
    · simp [Memory.read]
    · have : y.1 ≠ a := fun e => h3 e.symm
      simp [Memory.read, this, ih h.2]

/-- Every key after a write is the one written or was there before. -/
theorem mem_write (m : Memory) (a : Nat) (b : Byte) (x : Host.Cell) (hx : x ∈ m.write a b) :
    x ∈ m ∨ (x = (a, b) ∧ b ≠ Memory.blank) := by
  induction m with
  | nil =>
    by_cases hb : b = Memory.blank
    · simp [Memory.write, hb] at hx
    · simp [Memory.write, hb] at hx
      exact .inr ⟨hx, hb⟩
  | cons y rest ih =>
    simp only [Memory.write] at hx
    split_ifs at hx with h1 h2 h3 h4
    · exact .inl hx
    · rcases List.mem_cons.1 hx with rfl | hx
      · exact .inr ⟨rfl, h2⟩
      · exact .inl hx
    · exact .inl (by simp [hx])
    · rcases List.mem_cons.1 hx with rfl | hx
      · exact .inr ⟨rfl, h4⟩
      · exact .inl (by simp [hx])
    · rcases List.mem_cons.1 hx with rfl | hx
      · exact .inl (by simp)
      · rcases ih hx with h | h
        · exact .inl (by simp [h])
        · exact .inr h

/-- The order of the entries: addresses strictly rising, the half of the canonical form a read depends on. -/
def Memory.sorted (m : Memory) : Prop := m.Pairwise (fun x y => x.1 < y.1)

/-- A write keeps the entries in order, wherever it writes. -/
theorem write_sorted (m : Memory) (a : Nat) (b : Byte) (h : Memory.sorted m) : Memory.sorted (m.write a b) := by
  unfold Memory.sorted at h ⊢
  induction m with
  | nil => by_cases hb : b = Memory.blank <;> simp [Memory.write, hb]
  | cons y rest ih =>
    have hp := h
    rw [List.pairwise_cons] at h
    simp only [Memory.write]
    split_ifs with h1 h2 h3 h4
    · exact hp
    · refine List.pairwise_cons.2 ⟨fun x hx => ?_, hp⟩
      rcases List.mem_cons.1 hx with rfl | hx
      · exact h1
      · have := h.1 x hx
        show a < x.1
        omega
    · exact h.2
    · refine List.pairwise_cons.2 ⟨fun x hx => ?_, h.2⟩
      have := h.1 x hx
      show a < x.1
      omega
    · refine List.pairwise_cons.2 ⟨fun x hx => ?_, ih h.2⟩
      rcases mem_write _ _ _ _ hx with hx | ⟨rfl, -⟩
      · exact h.1 x hx
      · show y.1 < a
        omega

/-- A wide write keeps the entries in order. -/
theorem writeLE_sorted (m : Memory) (a n v : Nat) (h : Memory.sorted m) : Memory.sorted (m.writeLE a n v) := by
  induction n generalizing m a v with
  | zero => exact h
  | succ n ih => exact ih _ _ _ (write_sorted _ _ _ h)

/-- A write inside the address space keeps the canonical form. -/
theorem write_wf (m : Memory) (a : Nat) (b : Byte) (ha : a < 2 ^ 32) (h : Memory.wf m) : Memory.wf (m.write a b) := by
  refine ⟨write_sorted m a b h.1, fun x hx => ?_⟩
  rcases mem_write _ _ _ _ hx with hx | ⟨rfl, hb⟩
  · exact h.2 x hx
  · exact ⟨hb, ha⟩

/-- The frame of a wide write. -/
theorem read_writeLE_other (m : Memory) (a n v x : Nat) (h : x < a ∨ a + n ≤ x) :
    (m.writeLE a n v).read x = m.read x := by
  induction n generalizing m a v with
  | zero => rfl
  | succ n ih =>
    rw [Memory.writeLE, ih _ _ _ (by omega), read_write_other _ _ _ _ (by omega)]

/-- A wide write inside the address space keeps the canonical form. -/
theorem writeLE_wf (m : Memory) (a n v : Nat) (ha : a + n ≤ 2 ^ 32) (h : Memory.wf m) : Memory.wf (m.writeLE a n v) := by
  induction n generalizing m a v with
  | zero => exact h
  | succ n ih => exact ih _ _ _ (by omega) (write_wf _ _ _ (by omega) h)

/-- An admitted access lies inside the address space. -/
theorem admit_inside {p : Params} {a n : Nat} (h : memAdmit p a n = true) : a + n ≤ 2 ^ 32 := by
  simp only [memAdmit, Bool.and_eq_true, decide_eq_true_eq] at h
  exact h.1

/-- An access inside an admitted one is admitted: one range of real memory holds both. -/
theorem admit_sub {p : Params} {a n b k : Nat} (h : memAdmit p a n = true) (h1 : a ≤ b) (h2 : b + k ≤ a + n) :
    memAdmit p b k = true := by
  simp only [memAdmit, Bool.and_eq_true, decide_eq_true_eq, List.any_eq_true] at h ⊢
  obtain ⟨hin, r, hr, hlo, hhi⟩ := h
  exact ⟨by omega, r, hr, by omega, by omega⟩

/-- Every row of a good table is admitted (R73: "every row lies inside the admitted table"). -/
theorem row_admitted {s : State} (h : TableOk s) (he : s.dcm.en = true) (c : ChIdx) (hc : c.toNat < s.nCh) :
    rowAdmitted s.par (s.rowAddr c) = true := by
  obtain ⟨-, -, ha⟩ := h he
  have hk : s.tableBytes = 16 * s.nCh := rfl
  have hr : s.rowAddr c = s.dcm.base.toNat + 16 * c.toNat := rfl
  simp only [rowAdmitted, offCfg, offSrcEnd, offDstEnd, offNext, Bool.and_eq_true]
  refine ⟨⟨⟨?_, ?_⟩, ?_⟩, ?_⟩ <;> exact admit_sub ha (by omega) (by omega)

/-- The frame of `MemWrite`. -/
theorem memWrite_keeps (s : State) (a n : Nat) (v : Word) : BytesKeptOutside s (s.memWrite a n v) a n := by
  intro x hx
  exact read_writeLE_other _ _ _ _ _ hx

/-- The frame of the descriptor builder's write: the sixteen bytes of the row (R144). -/
theorem writeRow_keeps (s : State) (a : Nat) (r : Row) : BytesKeptOutside s (s.writeRow a r) a descRowBytes := by
  intro x hx
  simp only [descRowBytes] at hx
  simp only [State.writeRow, State.byteAt, memWrite_mem, offCfg, offSrcEnd, offDstEnd, offNext]
  rw [read_writeLE_other _ _ _ _ _ (by omega), read_writeLE_other _ _ _ _ _ (by omega),
    read_writeLE_other _ _ _ _ _ (by omega), read_writeLE_other _ _ _ _ _ (by omega)]

/-- The descriptor builder keeps the canonical form. -/
theorem writeRow_wf (s : State) (a : Nat) (r : Row) (ha : rowAdmitted s.par a = true) (h : Memory.wf s.mem) :
    Memory.wf (s.writeRow a r).mem := by
  simp only [rowAdmitted, Bool.and_eq_true] at ha
  obtain ⟨⟨⟨h0, h4⟩, h8⟩, h12⟩ := ha
  exact writeLE_wf _ _ _ _ (admit_inside h12) (writeLE_wf _ _ _ _ (admit_inside h8)
    (writeLE_wf _ _ _ _ (admit_inside h4) (writeLE_wf _ _ _ _ (admit_inside h0) h)))

/-- The empty memory is in canonical form. -/
theorem empty_wf : Memory.wf [] := ⟨.nil, by simp⟩

end Sys2Proof.Machine
end

