-- ==== Sys2Proof/Laws/Exec.lean ====
section
/-! SUPPORT. What an operation's answer is, said once: the response word as a number, and the inversion of the shared forms
`withInputs`, `finish`, `answer` and `holdOrFinish`, which callers cite instead of unfolding them (R104, R140, R146, R204). -/

namespace Sys2Proof.Machine

/-- The response word from its fields and as a number are the same word (R104). -/
theorem responseWord_eq (st : Status) (info : BitVec 8) (c : ChIdx) :
    responseWord st info c = reply c info.toNat st.code.toNat := by
  apply BitVec.eq_of_toNat_eq
  have h1 := c.isLt
  have h2 := info.isLt
  have h3 := st.code.isLt
  simp only [responseWord, reply, BitVec.toNat_append, BitVec.toNat_ofNat]
  rw [← Nat.shiftLeft_add_eq_or_of_lt (by simpa using h3), ← Nat.shiftLeft_add_eq_or_of_lt (by simpa using h2),
    ← Nat.shiftLeft_add_eq_or_of_lt (by simpa using h1)]
  simp only [Nat.shiftLeft_eq]
  simp
  omega

/-- An operation with its inputs at 1 does what its rule says (R140). -/
theorem withInputs_on (i : Instr) (s : State) (k : Result) (h : needsMet s.inp i = true) : withInputs i s k = k := by
  simp [withInputs, h]

/-- An operation that has a next state had its inputs at 1 (R140). -/
theorem withInputs_next {i : Instr} {s t : State} {k : Result} (h : withInputs i s k = .next t) :
    needsMet s.inp i = true ∧ k = .next t := by
  unfold withInputs at h
  split at h
  · exact ⟨‹_›, h⟩
  · cases h

/-- An answer records the operation with its response and changes nothing else (R36, R104). -/
theorem answer_next {i : Instr} {st : Status} {info : BitVec 8} {c : ChIdx} {s t : State}
    (h : answer i st info c s = .next t) :
    t = { s with trace := s.trace ++ [opRec i s (reply c info.toNat st.code.toNat)] } := by
  simp only [answer, Host.Outcome.next.injEq] at h
  rw [← h, responseWord_eq]
  rfl

/-- A WAIT either ends, when its condition holds, or blocks its context and changes nothing else (R146, R204). -/
theorem holdOrFinish_cases (h : Hold) (s : State) :
    (s.holdLifted h = true ∧ holdOrFinish h s = finishWait h (s.setHold s.cur none)) ∨
    (s.holdLifted h = false ∧ holdOrFinish h s = .next (s.setHold s.cur (some h))) := by
  cases hl : s.holdLifted h
  · exact .inr ⟨rfl, by simp [holdOrFinish, hl]⟩
  · exact .inl ⟨rfl, by simp [holdOrFinish, hl]⟩

end Sys2Proof.Machine
end

