-- ==== Sys2Proof/Laws/PerInstr.lean ====
section
/-! SUPPORT. The family PacketShape, one lemma per operation: the packet of an operation has the operation's `OPC`, its `CH`
field, and as many operand words as the `OPC` calls for (R101, R102, R103, R117). -/

namespace Sys2Proof.Laws.PacketShape

/-- The `OPC` of an operation (R103). -/
def opc : Instr → BitVec 8
  | .dmaEnable _ => 0x01#8
  | .chTake _ => 0x02#8
  | .chArm _ _ => 0x03#8
  | .chWait _ => 0x04#8
  | .mWriteAll _ _ _ _ => 0x10#8
  | .mReadAll _ _ _ _ => 0x11#8
  | .mStart => 0x12#8
  | .mWait => 0x13#8
  | .sEnable _ => 0x20#8
  | .sService => 0x21#8

/-- The shape of the packet of an operation. -/
def Statement (i : Instr) : Prop :=
  opcField (encode i).word0 = opc i ∧ chField (encode i).word0 = i.chField ∧
    (encode i).operands.length = operandCount (encode i).word0

theorem dmaEnable (base : Word) : Statement (.dmaEnable base) := by
  simp [Statement, encode, opc, Instr.chField, operandCount]

theorem chTake (c : ChIdx) : Statement (.chTake c) := by
  simp [Statement, encode, opc, Instr.chField, operandCount]

theorem chArm (c : ChIdx) (t : Transfer) : Statement (.chArm c t) := by
  simp [Statement, encode, opc, Instr.chField, operandCount]

theorem chWait (c : ChIdx) : Statement (.chWait c) := by
  simp [Statement, encode, opc, Instr.chField, operandCount]

theorem mWriteAll (addr : Nat) (ptr len : Word) (c : ChIdx) : Statement (.mWriteAll addr ptr len c) := by
  simp [Statement, encode, opc, Instr.chField, operandCount]

theorem mReadAll (addr : Nat) (ptr len : Word) (c : ChIdx) : Statement (.mReadAll addr ptr len c) := by
  simp [Statement, encode, opc, Instr.chField, operandCount]

theorem mStart : Statement .mStart := by
  simp [Statement, encode, opc, Instr.chField, operandCount]

theorem mWait : Statement .mWait := by
  simp [Statement, encode, opc, Instr.chField, operandCount]

theorem sEnable (addr : Nat) : Statement (.sEnable addr) := by
  simp [Statement, encode, opc, Instr.chField, operandCount]

theorem sService : Statement .sService := by
  simp [Statement, encode, opc, Instr.chField, operandCount]

end Sys2Proof.Laws.PacketShape
end

