-- ==== Sys2Proof/Laws/Sequencer.lean ====
section
/-! SUPPORT. The enabling of the element step and the hazards of a move and of arming, in the words of `Safety.lean`: callers
cite these and do not unfold the tests on Booleans (R147, R148, R196, R366, R367). -/

namespace Sys2Proof.Machine

/-- The enabling line of the element step (R148). -/
theorem seqEnabled_iff (s : State) (c : ChIdx) : s.seqEnabled c = true ↔ SeqMayMove s c := by
  simp only [State.seqEnabled, State.request, State.mDreq, SeqMayMove, Bool.and_eq_true, Bool.or_eq_true,
    decide_eq_true_eq, Bool.not_eq_true', and_assoc]

/-- An access of at least one byte overlaps a region exactly when they share a byte (R22, R367). -/
theorem overlaps_iff (a n : Nat) (r : Region) (h : 0 < n) : overlaps a n r = true ↔ SharesByte a n r := by
  have hl : r.len ≠ 0 ↔ 0 < r.len.toNat :=
    ⟨fun h => Nat.pos_of_ne_zero fun e => h (BitVec.eq_of_toNat_eq e), fun h e => by simp [e] at h⟩
  simp only [overlaps, SharesByte, Bool.and_eq_true, decide_eq_true_eq, hl]
  constructor
  · rintro ⟨⟨h1, h2⟩, h3⟩
    exact ⟨max a r.start.toNat, by omega, by omega, by omega⟩
  · rintro ⟨y, h1, h2, h3⟩
    omega

/-- The test of HAZ_DESC_WRITE (R366). -/
theorem hitsTable_iff (s : State) (a n : Nat) (hn : 0 < n) (hc : 0 < s.nCh) :
    s.hitsTable a n = true ↔ s.dcm.en = true ∧ ∃ y, (a ≤ y ∧ y < a + n) ∧
      s.dcm.base.toNat ≤ y ∧ y < s.dcm.base.toNat + 16 * s.nCh := by
  simp only [State.hitsTable, Bool.and_eq_true, decide_eq_true_eq]
  simp only [State.tableBytes, descRowBytes]
  constructor
  · rintro ⟨⟨he, h1⟩, h2⟩
    exact ⟨he, max a s.dcm.base.toNat, by omega, by omega, by omega⟩
  · rintro ⟨he, y, h1, h2, h3⟩
    exact ⟨⟨he, by omega⟩, by omega⟩

/-- A test over the other channels holds exactly when some other channel passes it. -/
theorem any_other_iff (l : List Chan) (n : Nat) (P : Chan → Bool) :
    l.zipIdx.any (fun y => decide (y.2 ≠ n) && P y.1) = true ↔
      ∃ (k : Nat) (x : Chan), l[k]? = some x ∧ k ≠ n ∧ P x = true := by
  simp only [List.any_eq_true, Prod.exists, List.mem_zipIdx_iff_getElem?, Bool.and_eq_true, decide_eq_true_eq]
  exact ⟨fun ⟨x, k, h⟩ => ⟨k, x, h⟩, fun ⟨k, x, h⟩ => ⟨x, k, h⟩⟩

/-- The test of a read in flight (R367). -/
theorem readAliases_iff (s : State) (c : ChIdx) (a n : Nat) (hn : 0 < n) :
    s.readAliases c a n = true ↔ ∃ (k : Nat) (x : Chan), s.chans[k]? = some x ∧ k ≠ c.toNat ∧ x.own = .xfer ∧
      SharesByte a n x.dst := by
  simp only [State.readAliases, Bool.and_assoc]
  rw [any_other_iff s.chans c.toNat (fun x => decide (x.own = .xfer) && overlaps a n x.dst)]
  simp only [Bool.and_eq_true, decide_eq_true_eq, overlaps_iff _ _ _ hn]

/-- The test of a write in flight (R367). -/
theorem writeAliases_iff (s : State) (c : ChIdx) (a n : Nat) (hn : 0 < n) :
    s.writeAliases c a n = true ↔ ∃ (k : Nat) (x : Chan), s.chans[k]? = some x ∧ k ≠ c.toNat ∧ x.own = .xfer ∧
      (SharesByte a n x.src ∨ SharesByte a n x.dst) := by
  simp only [State.writeAliases, Bool.and_assoc]
  rw [any_other_iff s.chans c.toNat (fun x => decide (x.own = .xfer) && (overlaps a n x.src || overlaps a n x.dst))]
  simp only [Bool.and_eq_true, Bool.or_eq_true, decide_eq_true_eq, overlaps_iff _ _ _ hn]

/-- The test at arming (R367). -/
theorem armAliases_iff (s : State) (c : ChIdx) (r : Region) :
    s.armAliases c r = true ↔ ∃ (k : Nat) (x : Chan), s.chans[k]? = some x ∧ k ≠ c.toNat ∧ x.active = true ∧
      SharesByte r.start.toNat r.len.toNat x.dst := by
  by_cases h : r.len = 0
  · simp [State.armAliases, SharesByte, h]
  · have hn : 0 < r.len.toNat := by
      have : r.len.toNat ≠ 0 := fun e => h (BitVec.eq_of_toNat_eq e)
      omega
    simp only [State.armAliases, Bool.and_assoc, h, ne_eq, not_false_eq_true, decide_true, Bool.true_and]
    rw [any_other_iff s.chans c.toNat (fun x => x.active && overlaps r.start.toNat r.len.toNat x.dst)]
    simp only [Bool.and_eq_true, overlaps_iff _ _ _ hn, ne_eq]

end Sys2Proof.Machine
end

