-- ==== Sys2Proof/Machine/Assembly.lean ====
section
/-! DEFINITION. The textual form of a command (R114) and the two pseudo-operations (R115). Neither is a step of the engine:
the host program writes them. -/

namespace Sys2Proof.Machine

/-- A number in C decimal form (R114). -/
def numText (n : Nat) : String := toString n

/-- `w8`, `w16`, `w32`; the reserved width has no spelling (R114). -/
def widthText : Nat → Option String
  | 0 => some "w8"
  | 1 => some "w16"
  | 2 => some "w32"
  | _ => none

/-- An endpoint with its increment mark: "A `+` after `src` or `dst` sets SRCINC or DSTINC" (R114). -/
def endpointText (a : Word) (inc : Bool) : String := numText a.toNat ++ (if inc then "+" else "")

/-- The operands of CH.ARM after the channel; `trig=` is left out when it is 0, its default (R114). -/
def transferText (t : Transfer) : Option String :=
  (widthText t.width).map fun w =>
    w ++ ", " ++ endpointText t.src t.srcInc ++ ", " ++ numText t.srcLen.toNat ++ ", " ++ endpointText t.dst t.dstInc ++
    ", " ++ numText t.dstLen.toNat ++ ", " ++ numText t.count.toNat ++
    (if t.trig = 0 then "" else ", trig=" ++ numText t.trig)

/-- The line that writes an operation: mnemonic, then comma-separated operands (R114). -/
def instrText (i : Instr) : Option String :=
  match i with
  | .dmaEnable base => some (i.mnemonic ++ " " ++ numText base.toNat)
  | .chTake c => some (i.mnemonic ++ " " ++ numText c.toNat)
  | .chArm c t => (transferText t).map fun x => i.mnemonic ++ " " ++ numText c.toNat ++ ", " ++ x
  | .chWait c => some (i.mnemonic ++ " " ++ numText c.toNat)
  | .mWriteAll addr ptr len c =>
    some (i.mnemonic ++ " " ++ numText addr ++ ", " ++ numText ptr.toNat ++ ", " ++ numText len.toNat ++ ", " ++
      numText c.toNat)
  | .mReadAll addr ptr len c =>
    some (i.mnemonic ++ " " ++ numText addr ++ ", " ++ numText ptr.toNat ++ ", " ++ numText len.toNat ++ ", " ++
      numText c.toNat)
  | .mStart => some i.mnemonic
  | .mWait => some i.mnemonic
  | .sEnable addr => some (i.mnemonic ++ " " ++ numText addr)
  | .sService => some i.mnemonic

/-- The pseudo-operations, each an exact sequence of real operations issued by FG (R115). -/
inductive Pseudo where
  | mWriteBlocking (addr : Nat) (ptr len : Word) (c : ChIdx)
  | mReadBlocking (addr : Nat) (ptr len : Word) (c : ChIdx)
  deriving DecidableEq, Repr

/-- The operation a pseudo-operation issues first (R115). -/
def Pseudo.first : Pseudo → Instr
  | .mWriteBlocking addr ptr len c => .mWriteAll addr ptr len c
  | .mReadBlocking addr ptr len c => .mReadAll addr ptr len c

/-- The byte count of a pseudo-operation. -/
def Pseudo.len : Pseudo → Word
  | .mWriteBlocking _ _ len _ => len
  | .mReadBlocking _ _ len _ => len

/-- What it issues after the first one has answered: M.START and M.WAIT, if the status is ST_OK and `len` is above 0 (R115);
the status of the last operation issued is the result. -/
def Pseudo.rest (p : Pseudo) (st : Status) : List Instr :=
  if st = .ok ∧ p.len ≠ 0 then [.mStart, .mWait] else []

end Sys2Proof.Machine
end

