-- ==== Sys2Proof/Tests/Slice0.lean ====
section
/-! SUPPORT. The model's own tests: the smoke test of WellFormed, the words of the spec's encodings (R118 and part 2.1 of
`95_test_vectors.md`), one or two single steps per operation with the results of parts 2.2 to 2.4 of that file (its vectors are
worked out from the rules, not from a run), and for every statement with hypotheses a witness that meets them. -/

namespace Sys2Proof.Tests

open Sys2Proof Sys2Proof.Machine

/-! ## Helpers -/

/-- The next state of an outcome, or the reset state. -/
def after : Result → State
  | .next t => t
  | .fault _ => State.reset
  | .refused _ => State.reset

/-- Does an outcome go on? -/
def goesOn : Result → Bool
  | .next _ => true
  | .fault _ => false
  | .refused _ => false

/-- The refusal of an outcome, if it is one. -/
def refusalOf : Result → Option Refusal
  | .next _ => none
  | .fault _ => none
  | .refused r => some r

/-- The response word of the last record, if it is an OP record. -/
def response (t : State) : Option Word :=
  match t.trace.getLast? with
  | some (.op _ _ r) => some r
  | _ => none

/-- The response of an operation and whether nothing but the trace changed. -/
def answered (i : Instr) (s : State) : Option Word × Bool :=
  let t := after (exec i s)
  (response t, decide ({ t with trace := s.trace } = s))

/-- Two channels, as after reset. -/
def two : State := { State.reset with chans := [Chan.reset, Chan.reset] }

/-- The engine enabled with the table at 0x10000200. -/
def on : State := { two with dcm := ⟨true, 0x10000200#32⟩ }

/-- Channel 0 held. -/
def held : State := { on with chans := [{ Chan.reset with own := .held }, Chan.reset] }

/-- The Transfer of V-D13, on these channels. -/
def copy4 : Transfer := ⟨2, true, true, 0, 0x10001000#32, 16, 0x10002000#32, 16, 4⟩

/-- Channel 0 armed with it, four source bytes written before. -/
def armed : State :=
  after (exec (.chArm 0 copy4) (held.memWrite 0x10001000 4 0x44332211#32))

/-- The master's registers in mid-transaction: one byte to or from 0x24 on channel 0. -/
def oneByte (p : MPhase) (d : Dir) (full : Bool) : Master := ⟨p, d, 0x24, 0, 0x10000400#32, 1, 0, .none, 0x14, full⟩

/-- The master's channel after M.START. -/
def masterChan : Chan := ⟨.xfer, true, .i2cMst, true, .none, 1, ⟨0x10000400#32, 1⟩, .empty⟩

/-- A started write of one byte, the bus idle, its row in memory. -/
def started : State :=
  ({ on with chans := [masterChan, Chan.reset], me := oneByte .start .w false }).writeRow 0x10000200
    (rowOf (masterTransfer on.par (oneByte .start .w false)))

/-- A write transaction of the own master in its data phase, nothing loaded yet, its row in memory. -/
def loading : State :=
  ({ on with
     chans := [masterChan, Chan.reset]
     me := oneByte .data .w false
     bus := ⟨.wIdle, .own, .extSlv, .w, 0x48⟩ }).writeRow 0x10000200 (rowOf (masterTransfer on.par (oneByte .data .w false)))

/-- The data register loaded in a write. -/
def loaded : State := { loading with me := oneByte .data .w true }

/-- A read transaction of the own master with a byte received, its row in memory. -/
def draining : State :=
  ({ on with
     chans := [{ masterChan with src := .empty, dst := ⟨0x10000400#32, 1⟩ }, Chan.reset]
     me := oneByte .data .r true
     bus := ⟨.rAckwait, .own, .extSlv, .r, 0x14⟩ }).writeRow 0x10000200 (rowOf (masterTransfer on.par (oneByte .data .r true)))

/-- The slave enabled at 0x24 with an event pending, addressed in the given phase and direction by this initiator. -/
def slaveIn (p : BusPhase) (who : Initiator) (d : Dir) (ev : EvCode) (valid : Bool) : State :=
  { two with
    sl := { Slave.reset with en := true, addr := 0x24, pend := ev, sel := selOf' d, rxdat := 0x14, last := 0x14,
                             lastValid := valid, state := .addressMatched }
    bus := ⟨p, who, .ownSlv, d, 0x48⟩ }
where
  /-- The selection of a direction. -/
  selOf' : Dir → Sel
    | .w => .selW
    | .r => .selR

/-! ## WellFormed: an ill-formed term for each check -/

theorem test_wf_refuses_width_4 : (Instr.chArm 0 { copy4 with width := 4 }).wf = false := by decide
theorem test_wf_refuses_trig_256 : (Instr.chArm 0 { copy4 with trig := 256 }).wf = false := by decide
theorem test_wf_refuses_write_address_65536 : (Instr.mWriteAll 65536 0 1 0).wf = false := by decide
theorem test_wf_refuses_read_address_65536 : (Instr.mReadAll 65536 0 1 0).wf = false := by decide
theorem test_wf_refuses_own_address_65536 : (Instr.sEnable 65536).wf = false := by decide

/-! ## Decoding: words written out from R101 to R103 (R118, V-E1 to V-E21) -/

theorem test_decode_dmaEnable : decode ⟨0x01000000#32, [0x10000200#32]⟩ = some (.dmaEnable 0x10000200#32) := by decide
theorem test_decode_chTake : decode ⟨0x02110000#32, []⟩ = some (.chTake 17) := by decide
theorem test_decode_chArm :
    decode ⟨0x03000111#32, [0x10001000#32, 4#32, 0x10001100#32, 2#32, 2#32]⟩ =
      some (.chArm 0 ⟨1, true, false, 1, 0x10001000#32, 4, 0x10001100#32, 2, 2⟩) := by decide
theorem test_decode_chArm_dstinc :
    decode ⟨0x03030020#32, [0x10001010#32, 1#32, 0x10002010#32, 4#32, 4#32]⟩ =
      some (.chArm 3 ⟨0, false, true, 0, 0x10001010#32, 1, 0x10002010#32, 4, 4⟩) := by decide
theorem test_decode_chWait : decode ⟨0x04FF0000#32, []⟩ = some (.chWait 255) := by decide
theorem test_decode_mWriteAll :
    decode ⟨0x1005007F#32, [0x10000400#32, 0x400#32]⟩ = some (.mWriteAll 0x7F 0x10000400#32 1024 5) := by decide
theorem test_decode_mReadAll :
    decode ⟨0x11000100#32, [0x10000400#32, 1#32]⟩ = some (.mReadAll 0x100 0x10000400#32 1 0) := by decide
theorem test_decode_mStart : decode ⟨0x12000000#32, []⟩ = some .mStart := by decide
theorem test_decode_mWait : decode ⟨0x13000000#32, []⟩ = some .mWait := by decide
theorem test_decode_sEnable : decode ⟨0x20000024#32, []⟩ = some (.sEnable 0x24) := by decide
theorem test_decode_sService : decode ⟨0x21000000#32, []⟩ = some .sService := by decide
theorem test_encode_chArm :
    encode (.chArm 2 copy4) = ⟨0x03020032#32, [0x10001000#32, 0x10#32, 0x10002000#32, 0x10#32, 4#32]⟩ := by decide

/-- Illegal: an unknown `OPC`, a `CH` or `IMM` that must be 0, a reserved bit of CH.ARM, a wrong length (V-E11 to V-E21). -/
theorem test_decode_illegal :
    decode ⟨0x00000000#32, []⟩ = none ∧ decode ⟨0xFF070000#32, []⟩ = none ∧ decode ⟨0x01050000#32, [0x10000200#32]⟩ = none ∧
    decode ⟨0x02030001#32, []⟩ = none ∧ decode ⟨0x03020008#32, [0, 0, 0, 0, 0]⟩ = none ∧
    decode ⟨0x03020040#32, [0, 0, 0, 0, 0]⟩ = none ∧ decode ⟨0x12000001#32, []⟩ = none ∧ decode ⟨0x13010000#32, []⟩ = none ∧
    decode ⟨0x20010024#32, []⟩ = none ∧ decode ⟨0x21000100#32, []⟩ = none ∧ decode ⟨0x05000000#32, []⟩ = none ∧
    decode ⟨0x14000000#32, []⟩ = none ∧ decode ⟨0x22000000#32, []⟩ = none ∧ decode ⟨0x02030000#32, [0]⟩ = none ∧
    decode ⟨0x01000000#32, []⟩ = none := by decide

/-- No word selects two rows of the opcode map: any two patterns differ in a bit both masks look at (R103). -/
theorem test_opRows_do_not_overlap :
    opRows.Pairwise (fun a b => a.pattern &&& (a.mask &&& b.mask) ≠ b.pattern &&& (a.mask &&& b.mask)) := by decide

/-- The table's numbering of bits: the first word lowest (M.READ_ALL of R118). -/
theorem test_decodeTableWord :
    decodeTableWord 96 0x000000011000040411000024 = some (.mReadAll 0x24 0x10000404#32 1 0) := by decide

/-! ## One step per operation (parts 2.2 to 2.4 of `95_test_vectors.md`) -/

/-- V-D1. -/
theorem test_dmaEnable_sets_base :
    (after (exec (.dmaEnable 0x10000200#32) State.reset)).dcm = ⟨true, 0x10000200#32⟩ ∧
    response (after (exec (.dmaEnable 0x10000200#32) State.reset)) = some 0x00000000#32 := by decide
/-- V-D2, V-D3, V-D4. -/
theorem test_dmaEnable_errors :
    answered (.dmaEnable 0x10000400#32) on = (some 0x00000012#32, true) ∧
    answered (.dmaEnable 0x10000210#32) State.reset = (some 0x00000014#32, true) ∧
    answered (.dmaEnable 0x10004000#32) State.reset = (some 0x00000014#32, true) := by decide
/-- V-D8. -/
theorem test_chTake_grants :
    response (after (exec (.chTake 1) on)) = some 0x00010000#32 ∧ ((after (exec (.chTake 1) on)).ch 1).own = .held := by decide
/-- V-D6, V-D7, V-D10. -/
theorem test_chTake_errors :
    answered (.chTake 3) State.reset = (some 0x00030050#32, true) ∧ answered (.chTake 0) held = (some 0x00000040#32, true) ∧
    answered (.chTake 255) held = (some 0x00FF0013#32, true) := by decide
/-- V-D13: the words of the row and the counter. -/
theorem test_chArm_builds_the_row :
    armed.readRow 0x10000200 = ⟨0x00035201#32, 0x1000100C#32, 0x1000200C#32, 0⟩ ∧ (armed.ch 0).rem = 4 ∧
    (armed.ch 0).active = true ∧ (armed.ch 0).own = .xfer := by decide
/-- V-D14, V-D20, V-D23, V-E22. -/
theorem test_chArm_errors :
    answered (.chArm 0 { copy4 with count := 0 }) held = (some 0x00000011#32, true) ∧
    answered (.chArm 0 { copy4 with src := 0x10001002#32 }) held = (some 0x00000011#32, true) ∧
    answered (.chArm 0 ⟨0, true, false, 0, 0x10001000#32, 4, 0x40050028#32, 1, 4⟩) held = (some 0x00000011#32, true) ∧
    answered (.chArm 0 { copy4 with width := 3 }) held = (some 0x00000011#32, true) := by decide
/-- V-D31: the first element, and the count. -/
theorem test_element_step :
    (seqStep 0 armed).memRead 0x10002000 4 = 0x44332211#32 ∧ ((seqStep 0 armed).ch 0).rem = 3 ∧
    (seqStep 0 armed).trace.getLast? = some (.dma 0 0x10001000#32 0x10002000#32 4 0x44332211#32) := by decide
/-- V-D32 and V-D36: the status after the hold. -/
theorem test_chWait_status :
    response (after (exec (.chWait 0) (armed.setCh 0 { armed.ch 0 with active := false }))) = some 0x00000000#32 ∧
    response (after (exec (.chWait 0) (armed.setCh 0 { armed.ch 0 with active := false, err := .dmaAbort }))) =
      some 0x00000030#32 := by decide
/-- V-D33: it blocks while the Transfer is in flight, and answers nothing. -/
theorem test_chWait_blocks :
    (after (exec (.chWait 0) armed)).fg.hold = some (.chWait 0) ∧ (after (exec (.chWait 0) armed)).trace = armed.trace := by
  decide
/-- V-M6. -/
theorem test_mWriteAll_describes :
    (after (exec (.mWriteAll 0x24 0x10000400#32 1 0) held)).me = ⟨.pending, .w, 0x24, 0, 0x10000400#32, 1, 0, .none, 0, false⟩ ∧
    ((after (exec (.mWriteAll 0x24 0x10000400#32 1 0) held)).ch 0).own = .xfer := by decide
/-- V-M1, V-M3, V-M4, V-M10b. -/
theorem test_mWriteAll_errors :
    answered (.mWriteAll 0x80 0x10000400#32 1 0) held = (some 0x00000010#32, true) ∧
    answered (.mWriteAll 0x80 0x10000400#32 0 0) held = (some 0x00000010#32, true) ∧
    answered (.mWriteAll 0x24 0 0 0) State.reset = (some 0x00000000#32, true) ∧
    answered (.mWriteAll 0x24 0xFFFFFFFF#32 2 0) held = (some 0x00000011#32, true) := by decide
/-- V-M15, its first operation, on the buffer of V-M10d. -/
theorem test_mReadAll_describes :
    (after (exec (.mReadAll 0x50 0x40050018#32 16 0) held)).me.dir = .r ∧
    ((after (exec (.mReadAll 0x50 0x40050018#32 16 0) held)).ch 0).dst = ⟨0x40050018#32, 16⟩ := by decide
/-- V-M2, V-M5, V-M10c. -/
theorem test_mReadAll_errors :
    answered (.mReadAll 0xFFFF 0x10000400#32 1 5) held = (some 0x00050010#32, true) ∧
    answered (.mReadAll 0x7F 0xDEADBEEF#32 0 200) held = (some 0x00C80000#32, true) ∧
    answered (.mReadAll 0x24 0x40050020#32 16 0) held = (some 0x00000011#32, true) := by decide
/-- V-M11c. -/
theorem test_mStart_builds_the_row :
    let t := after (exec .mStart (after (exec (.mWriteAll 0x24 0x10000400#32 1 0) held)))
    t.readRow 0x10000200 = ⟨0x00001001#32, 0x10000400#32, 0x40050028#32, 0⟩ ∧ t.me.phase = .start ∧ (t.ch 0).active = true := by
  decide
/-- V-M11. -/
theorem test_mStart_error : answered .mStart held = (some 0x00000050#32, true) := by decide
/-- V-M11b, V-M23: a BusFault before the peripheral NACK. -/
theorem test_mWait_status :
    answered .mWait (after (exec (.mWriteAll 0x24 0x10000400#32 1 0) held)) = (some 0x00000050#32, true) ∧
    response (after (exec .mWait { on with
      chans := [{ masterChan with active := false, err := .periphNack }, Chan.reset]
      me := { oneByte .done .w false with fault := .nackData } })) = some 0x00000021#32 := by decide
/-- V-M12, `wdone` done: the channel is handed back, the master idle. -/
theorem test_mWait_releases :
    let t := after (exec .mWait { on with
      chans := [{ masterChan with active := false, rem := 0 }, Chan.reset], me := oneByte .done .w false })
    (t.ch 0).own = .held ∧ (t.ch 0).src.len = 0 ∧ t.me.phase = .idle ∧ response t = some 0x00000000#32 := by decide
/-- V-S31. -/
theorem test_sEnable_sets_address :
    (after (exec (.sEnable 0x7F) State.reset)).sl = { Slave.reset with en := true, addr := 0x7F } := by decide
/-- V-S32, V-S33, V-S34. -/
theorem test_sEnable_errors :
    answered (.sEnable 0x80) State.reset = (some 0x00000010#32, true) ∧
    answered (.sEnable 0x25) (slaveIn .idle .own .w 0 false) = (some 0x00000012#32, true) ∧
    answered (.sEnable 0x100) (slaveIn .idle .own .w 0 false) = (some 0x00000010#32, true) := by decide
/-- V-S2, V-S5, V-S9, V-S12, V-S18: the response of each case. -/
theorem test_sService_responses :
    answered .sService (slaveIn .idle .ext .w 0 true) = (some 0x00002001#32, true) ∧
    response (after (exec .sService (slaveIn .addr .ext .w 1 false))) = some 0x00002100#32 ∧
    response (after (exec .sService (slaveIn .wAckwait .ext .w 2 false))) = some 0x00004200#32 ∧
    response (after (exec .sService (slaveIn .rDatawait .ext .r 3 true))) = some 0x00006300#32 ∧
    response (after (exec .sService (slaveIn .rDatawait .ext .r 3 false))) = some 0x00007300#32 ∧
    response (after (exec .sService (slaveIn .addr .ext .w 8 false))) = some 0x0000E8F0#32 := by decide
/-- V-S12: 0x14 is answered as 0x28, which the own master receives; the kept byte stays. -/
theorem test_sService_doubles :
    (after (exec .sService (slaveIn .rDatawait .own .r 3 true))).sl.txdat = 0x28 ∧
    (after (exec .sService (slaveIn .rDatawait .own .r 3 true))).me.dat = 0x28 ∧
    (after (exec .sService (slaveIn .rDatawait .own .r 3 true))).sl.last = 0x14 := by decide

/-- R367: armed on channel 1 while channel 0 is armed, a Transfer whose destination reaches into channel 0's is noted, one whose
destination starts after its end is not. -/
theorem test_chArm_notes_overlapping_destinations :
    let s := armed.setCh 1 { Chan.reset with own := .held }
    (after (exec (.chArm 1 { copy4 with dst := 0x1000200C#32 }) s)).haz = ⟨false, true⟩ ∧
    (after (exec (.chArm 1 { copy4 with dst := 0x10002010#32 }) s)).haz = ⟨false, false⟩ := by decide
/-- R366: a row changed under the armed channel is followed as it stands, here to the port in the other direction. -/
theorem test_element_step_follows_a_changed_row :
    let s := draining.writeRow 0x10000200 (rowOf (masterTransfer on.par (oneByte .data .w true)))
    (seqStep 0 s).me = { draining.me with dat := 0 } ∧ ((seqStep 0 s).ch 0).rem = 0 ∧
    (seqStep 0 s).trace = [.dma 0 0x10000400#32 0x40050028#32 1 0] := by decide

/-! ## Every row of the table runs as the first operation after reset -/

theorem test_table_rows_run_from_reset :
    ([(64, 0x1000020001000000), (32, 0x02030000), (192, 0x03020032), (32, 0x04020000), (96, 0x000000011000040010000024),
      (96, 0x000000011000040411000024), (32, 0x12000000), (32, 0x13000000), (32, 0x20000024), (32, 0x21000000)]).all
      (fun x => (decodeTableWord x.1 x.2).isSome && goesOn (step (State.reset.withFetchWord x.1 x.2))) = true := by decide

/-! ## Witnesses: states and operands that meet the hypotheses of each statement -/

theorem witness_DecodeOfEncode :
    ([Instr.dmaEnable 0xFFFFFFFF#32, .chTake 255, .chArm 255 ⟨3, true, true, 255, 0, 0, 0xFFFFFFFF#32, 0, 0⟩, .chWait 0,
      .mWriteAll 65535 0 0 255, .mReadAll 0 0 0xFFFFFFFF#32 0, .mStart, .mWait, .sEnable 65535, .sService]).all Instr.wf = true := by
  decide

theorem witness_EncodeOfDecode : decode ⟨0x03FFFF33#32, [1#32, 2#32, 3#32, 4#32, 5#32]⟩ =
    some (.chArm 255 ⟨3, true, true, 255, 1, 2, 3, 4, 5⟩) := by decide

theorem witness_IllegalPackets : decode ⟨0x0300000C#32, [1#32, 2#32, 3#32, 4#32, 5#32]⟩ = none := by decide

/-- A context with a packet to issue and the turn. -/
def offering : State := { two with sched := [.host .int], int := ⟨[⟨0x21000000#32, []⟩], none⟩ }

theorem witness_StepIssues :
    offering.sched = [.host .int] ∧ offering.ctx .int = ⟨[⟨0x21000000#32, []⟩], none⟩ ∧
    decode ⟨0x21000000#32, []⟩ = some .sService ∧ two.int.hold = none ∧
    (two.setCtx .fg ⟨[⟨0, []⟩], none⟩).ctx .fg = ⟨[⟨0, []⟩], none⟩ ∧ decode ⟨0, []⟩ = none ∧
    decodeTableWord 32 0x02030000 = some (.chTake 3) := by decide

theorem witness_OperationsAreRefused :
    refusalOf (exec (.chTake 0) { two with inp := ⟨false, true, true⟩ }) = some .clockOff ∧
    refusalOf (exec .mWait { two with inp := ⟨true, false, true⟩ }) = some .clockOff ∧
    refusalOf (exec (.sEnable 0) { two with inp := ⟨true, true, false⟩ }) = some .clockOff ∧
    refusalOf (exec .mStart { two with inp := ⟨true, true, false⟩ }) = some .clockOff := by decide

theorem witness_DmaEnable :
    on.inp.clkDma = true ∧ on.dcm.en = true ∧ two.dcm.en = false ∧ (0x10000201#32).toNat % two.par.descAlign ≠ 0 ∧
    memAdmit two.par (0x10003FE0#32).toNat (16 * two.nCh) = true ∧ memAdmit two.par (0x10003FE1#32).toNat (16 * two.nCh) = false ∧
    (0xFFFFFFF0#32).toNat + 16 * two.nCh > 2 ^ 32 ∧ (0x10003E00#32).toNat % two.par.descAlign = 0 ∧
    (0x10003E00#32).toNat + 16 * two.nCh ≤ 2 ^ 32 ∧ memAdmit two.par (0x10003E00#32).toNat (16 * two.nCh) = true := by decide

theorem witness_ChTake :
    two.inp.clkDma = true ∧ two.dcm.en = false ∧ on.dcm.en = true ∧ on.nCh ≤ (2 : ChIdx).toNat ∧ (1 : ChIdx).toNat < on.nCh ∧
    (held.ch 0).own ≠ .free ∧ (held.ch 1).own = .free := by decide

theorem witness_TakingTwo :
    (0 : ChIdx) ≠ 1 ∧ on.inp.clkDma = true ∧ on.dcm.en = true ∧ (0 : ChIdx).toNat < on.nCh ∧ (1 : ChIdx).toNat < on.nCh ∧
    (on.ch 0).own = .free ∧ (on.ch 1).own = .free := by decide

/-- A good table, on every enabled state above. -/
theorem witness_TableOk : TableOk held := fun _ => by decide

theorem witness_Memory_wf : Memory.wf held.mem ∧ Memory.wf armed.mem := by decide

/-- Every clause of CH.ARM; `witness_TableOk` and `witness_Memory_wf` give the two invariants. -/
theorem witness_ChArm :
    held.inp.clkDma = true ∧ two.dcm.en = false ∧ held.dcm.en = true ∧ held.nCh ≤ (2 : ChIdx).toNat ∧
    (1 : ChIdx).toNat < held.nCh ∧ (held.ch 1).own ≠ .held ∧ (held.ch 0).own = .held ∧
    validTransfer held.par { copy4 with srcLen := 15 } false = false ∧ validTransfer held.par copy4 false = true := by decide

theorem witness_ChArm_off : TableOk two ∧ Memory.wf two.mem := ⟨fun h => by simp [two, State.reset, Dcm.reset] at h, by decide⟩

theorem witness_BuiltRows :
    validTransfer held.par ⟨0, true, true, 0, 0x10001000#32, 1024, 0xFFFFFC00#32, 1024, 1024⟩ false = true ∧
    (1 : Count).toNat ≤ (1024 : Word).toNat ∧ (1024 : Count).toNat ≤ (1024 : Word).toNat := by decide

theorem witness_ChWait :
    two.dcm.en = false ∧ armed.inp.clkDma = true ∧ armed.dcm.en = true ∧ armed.nCh ≤ (255 : ChIdx).toNat ∧
    (0 : ChIdx).toNat < armed.nCh ∧ (armed.ch 1).own ≠ .xfer ∧ (armed.ch 0).own = .xfer ∧ armed.me.phase = .idle ∧
    (armed.ch 0).active = true ∧ (armed.ch 0).err = .none ∧ (started.ch 0).own = .xfer ∧ started.me.phase ≠ .idle ∧
    started.me.ch = 0 ∧ ((armed.setCh 0 { armed.ch 0 with active := false }).ch 0).own = .xfer ∧
    ¬ (((armed.setCh 0 { armed.ch 0 with active := false }).ch 0).active = true ∧
      ((armed.setCh 0 { armed.ch 0 with active := false }).ch 0).err = .none) := by decide

/-- Blocked in CH.WAIT and in M.WAIT, before and after the condition holds. -/
def blocked (h : Hold) (active : Bool) (p : MPhase) : State :=
  { on with chans := [{ masterChan with active := active }, Chan.reset], me := oneByte p .w false, fg := ⟨[], some h⟩ }

theorem witness_BlockedWaits :
    two.int.hold = none ∧ (0 : ChIdx).toNat < on.nCh ∧
    ((blocked (.chWait 0) true .idle).ctx .fg).hold = some (.chWait 0) ∧
    ((blocked (.chWait 0) true .idle).ch 0).active = true ∧ ((blocked (.chWait 0) true .idle).ch 0).err = .none ∧
    ((blocked (.chWait 0) false .idle).ch 0).active = false ∧
    ((blocked (.mWait 0) true .data).ctx .fg).hold = some (.mWait 0) ∧
    ¬ ((blocked (.mWait 0) true .data).me.phase = .done ∧ ((blocked (.mWait 0) true .data).ch 0).active = false) ∧
    ((blocked (.mWait 0) false .done).me.phase = .done ∧ ((blocked (.mWait 0) false .done).ch 0).active = false) ∧
    ({ two with int := ⟨[], some (.mWait 0)⟩ }).int.hold ≠ none := by decide

theorem witness_MWriteAll_MReadAll :
    held.inp.clkI2c = true ∧ held.inp.clkDma = true ∧ (128 : Nat) > 127 ∧ (127 : Nat) ≤ 127 ∧ (1 : Word) ≠ 0 ∧
    started.me.phase ≠ .idle ∧ held.me.phase = .idle ∧ held.nCh ≤ (2 : ChIdx).toNat ∧ (1 : ChIdx).toNat < held.nCh ∧
    two.dcm.en = false ∧ (held.ch 1).own ≠ .held ∧ held.dcm.en = true ∧ (held.ch 0).own = .held ∧
    (1025 : Word).toNat > 1024 ∧
    (0xFFFFFFFF#32).toNat + (2 : Word).toNat > 2 ^ 32 ∧
    ((0x40050020#32).toNat ≤ held.par.aMstdat.toNat ∧ held.par.aMstdat.toNat < (0x40050020#32).toNat + (9 : Word).toNat) ∧
    ¬ ((1024 : Word).toNat > 1024 ∨ (0xFFFFFC00#32).toNat + (1024 : Word).toNat > 2 ^ 32 ∨
      ((0xFFFFFC00#32).toNat ≤ held.par.aMstdat.toNat ∧
        held.par.aMstdat.toNat < (0xFFFFFC00#32).toNat + (1024 : Word).toNat)) := by decide

/-- A described write. -/
def pending : State := { on with chans := [{ masterChan with active := false }, Chan.reset], me := oneByte .pending .w false }

theorem witness_MStart :
    pending.inp.clkI2c = true ∧ pending.inp.clkDma = true ∧ pending.inp.pinsOk = true ∧ started.me.phase ≠ .pending ∧
    pending.me.phase = .pending ∧ pending.dcm.en = true ∧ pending.me.ch.toNat < pending.nCh ∧ Memory.wf pending.mem := by decide

theorem witness_MStart_table : TableOk pending := fun _ => by decide

theorem witness_MWait :
    started.inp.clkI2c = true ∧ started.inp.clkDma = true ∧ pending.me.phase = .pending ∧ two.me.phase = .idle ∧
    started.me.phase ≠ .idle ∧ started.me.phase ≠ .pending ∧ started.me.ch.toNat < started.nCh ∧
    ¬ (started.me.phase = .done ∧ (started.ch 0).active = false) ∧
    ((blocked (.mWait 0) false .done).me.phase = .done ∧ ((blocked (.mWait 0) false .done).ch 0).active = false) := by decide

theorem witness_SEnable :
    two.inp.clkI2c = true ∧ two.inp.pinsOk = true ∧ (128 : Nat) > 127 ∧ (127 : Nat) ≤ 127 ∧
    (slaveIn .idle .own .w 0 false).sl.en = true ∧ two.sl.en = false := by decide

/-- The cases of S.SERVICE, each in a state of its own. -/
theorem witness_Service :
    two.inp.clkI2c = true ∧ two.sl.fatal = false ∧ two.sl.en = false ∧ (slaveIn .idle .ext .w 0 false).sl.pend = evNone ∧
    (slaveIn .addr .own .r 1 false).sl.pend = evAddrMatch ∧ (slaveIn .wAckwait .own .w 2 false).sl.pend = evRxReady ∧
    (slaveIn .rDatawait .own .r 3 true).sl.pend = evTxReady ∧ (slaveIn .rDatawait .own .r 3 true).sl.lastValid = true ∧
    (slaveIn .rDatawait .own .r 3 false).sl.lastValid = false ∧ (slaveIn .rDatawait .own .r 3 false).par.txUnderrun = .stall ∧
    4 ≤ (slaveIn .addr .own .w 4 false).sl.pend.toNat ∧ 4 ≤ (slaveIn .addr .own .w 15 false).sl.pend.toNat ∧
    (slaveIn .addr .own .w 15 false).sl.en = true ∧ (slaveIn .addr .own .w 15 false).sl.fatal = false := by decide

/-- An underrun under DRAW, with the bus waiting and with the bus hung. -/
def drawing (p : BusPhase) : State :=
  { slaveIn p .own .r 3 false with par := { Params.suggested with txUnderrun := .draw } }

theorem witness_ServiceReportsAnUnderrun_draw :
    (drawing .rDatawait).par.txUnderrun = .draw ∧ (drawing .rDatawait).bus.phase = .rDatawait ∧
    (drawing .hung).bus.phase ≠ .rDatawait ∧ (drawing .hung).sl.pend = evTxReady ∧ (drawing .hung).sl.lastValid = false := by
  decide

theorem witness_SessionState :
    goesOn (exec .sService (slaveIn .addr .own .w 15 false)) = true ∧ Instr.mWait ≠ .sService ∧ goesOn (exec .mWait two) = true := by
  decide

/-- A slave in Fault, addressed. -/
def dead : State :=
  { slaveIn .addr .ext .w 8 false with
    sl := { (slaveIn .addr .ext .w 8 false).sl with state := .fault, fatal := true, faultCode := 8 } }

theorem witness_SlaveFault :
    dead.sl.fatal = true ∧ dead.inp.clkI2c = true ∧ goesOn (takeTurn .bus dead) = true ∧ Turn.bus ≠ .reset ∧
    Turn.bus ≠ .env .timeout ∧ dead.bus.tgt = .ownSlv ∧ dead.bus.phase = .addr := by decide

theorem witness_FrameOfOperations :
    goesOn (exec (.chArm 0 copy4) held) = true ∧ rowBuilt (.chArm 0 copy4) held = some 0 ∧ rowBuilt .mStart pending = some 0 ∧
    goesOn (exec .mStart pending) = true ∧ rowBuilt (.chTake 1) on = none ∧ goesOn (exec (.chTake 1) on) = true ∧
    channelWritten (.chTake 1) on ≠ some 0 ∧ usesDcm (.chTake 1) = true ∧ usesMaster .mStart = true ∧
    goesOn (exec (.sEnable 1) two) = true := by decide

/-- The hazard clause: channel 0 is armed, and the Transfer armed on channel 1 has a destination in its. -/
theorem witness_FrameOfOperations_haz :
    let s := armed.setCh 1 { Chan.reset with own := .held }
    let t := after (exec (.chArm 1 { copy4 with dst := 0x1000200C#32 }) s)
    (s.ch 0).active = true ∧ rowBuilt (.chArm 1 { copy4 with dst := 0x1000200C#32 }) s = some 1 ∧
    t.trace = s.trace ++ [opRec (.chArm 1 { copy4 with dst := 0x1000200C#32 }) s (reply 1 0 0x00)] ∧
    ((t.ch 1).dst.start.toNat ≤ 0x1000200F ∧ 0x1000200F < (s.ch 0).dst.start.toNat + (s.ch 0).dst.len.toNat) := by decide

/-- An error answer, in the form the statement takes it. -/
theorem witness_ErrorAnswers :
    goesOn (exec (.chTake 0) held) = true ∧ 0x40 ∈ [0x10, 0x11, 0x12, 0x13, 0x14, 0x40, 0x50] ∧
    (after (exec (.chTake 0) held)).trace = held.trace ++ [] ++ [opRec (.chTake 0) held (reply 0 0 0x40)] := by decide

theorem witness_Ownership :
    ((after (exec (.chTake 1) on)).ch 1).own ≠ (on.ch 1).own ∧ goesOn (exec (.chTake 1) on) = true ∧ goesOn (takeTurn (.seq 0) armed) = true := by
  decide

theorem witness_OnlyReset :
    goesOn (takeTurn (.seq 0) armed) = true ∧ Turn.seq 0 ≠ .reset ∧ armed.dcm.en = true ∧ (armed.ch 0).enabled = true ∧
    goesOn (takeTurn (.env .xmStop) dead) = true ∧ dead.sl.en = true ∧ dead.sl.fatal = true ∧ dead.sl.state ≠ .idle ∧
    (slaveIn .addr .own .w 1 true).sl.lastValid = true := by decide

/-- The last clause at a turn of the host that issues another operation. -/
theorem witness_OnlyReset_host :
    let s := { two with fg := ⟨[⟨0x02030000#32, []⟩], none⟩ }
    goesOn (takeTurn (.host .fg) s) = true ∧ (s.ctx .fg).prog = [⟨0x02030000#32, []⟩] ∧
    decode ⟨0x02030000#32, []⟩ ≠ some .sService := by decide

theorem witness_EveryStep : goesOn (step { armed with sched := [.seq 0] }) = true ∧ armed.mem ≠ [] := by decide

theorem witness_MemoryReadsBack : Memory.wf armed.mem ∧ ((4 : Nat) = 1 ∨ (4 : Nat) = 2 ∨ (4 : Nat) = 4) := by decide

/-- Channels whose element step may run (R148), and one whose may not. -/
theorem witness_SeqMayMove :
    SeqMayMove armed 0 ∧ SeqMayMove loading 0 ∧ SeqMayMove draining 0 ∧ ¬ SeqMayMove held 0 ∧ ¬ SeqMayMove loaded 0 := by
  simp only [← seqEnabled_iff]; decide

theorem witness_ElementStep :
    rowAdmitted armed.par (armed.rowAddr 0) = true ∧ Memory.wf armed.mem ∧
    rowWellFormed (armed.readRow (armed.rowAddr 0)) = true ∧
    (armed.ch 0).rem.toNat ≤ cfgCount (armed.readRow (armed.rowAddr 0)).cfg ∧
    (armed.readRow (armed.rowAddr 0)).srcEnd - 12#32 = 0x10001000#32 ∧
    (armed.readRow (armed.rowAddr 0)).dstEnd - 12#32 = 0x10002000#32 ∧ 0x10001000#32 ≠ armed.par.aMstdat ∧
    memAdmit armed.par 0x10001000 4 = true ∧ memAdmit armed.par 0x10002000 4 = true := by decide

/-- Each cause of an abort; the element step is enabled in all of these states. -/
theorem witness_ElementStepAborts_enabled :
    SeqMayMove (armed.setDcm ⟨true, 0x10003FF8#32⟩) 0 ∧ SeqMayMove (armed.memWrite 0x1000020C 4 1#32) 0 ∧
    SeqMayMove (armed.setCh 0 { armed.ch 0 with rem := 5 }) 0 ∧ SeqMayMove (armed.memWrite 0x10000208 4 0x40050034#32) 0 ∧
    SeqMayMove (armed.memWrite 0x10000204 4 0x2000000C#32) 0 ∧ SeqMayMove (armed.memWrite 0x10000208 4 0x2000000C#32) 0 := by
  simp only [← seqEnabled_iff]; decide

theorem witness_ElementStepAborts :
    rowAdmitted (armed.setDcm ⟨true, 0x10003FF8#32⟩).par ((armed.setDcm ⟨true, 0x10003FF8#32⟩).rowAddr 0) = false ∧
    rowWellFormed ((armed.memWrite 0x1000020C 4 1#32).readRow 0x10000200) = false ∧
    cfgCount ((armed.setCh 0 { armed.ch 0 with rem := 5 }).readRow 0x10000200).cfg < 5 ∧
    ((armed.memWrite 0x10000208 4 0x40050034#32).readRow 0x10000200).dstEnd - 12#32 = armed.par.aMstdat ∧
    memAdmit armed.par ((armed.memWrite 0x10000204 4 0x2000000C#32).readRow 0x10000200).srcEnd.toNat 4 = false ∧
    memAdmit armed.par ((armed.memWrite 0x10000208 4 0x2000000C#32).readRow 0x10000200).dstEnd.toNat 4 = false := by decide

theorem witness_MasterElementStep_write :
    (loading.ch 0).trig = .i2cMst ∧ rowAdmitted loading.par (loading.rowAddr 0) = true ∧
    loading.readRow (loading.rowAddr 0) = rowOf (masterTransfer loading.par loading.me) ∧ Memory.wf loading.mem ∧
    badMasterBuffer loading.par loading.me.ptr (BitVec.ofNat 32 loading.me.len.toNat) = false ∧
    1 ≤ (loading.ch 0).rem.toNat ∧ (loading.ch 0).rem.toNat ≤ loading.me.len.toNat ∧
    memAdmit loading.par 0x10000400 1 = true ∧ loading.me.dir = .w := by decide

theorem witness_MasterElementStep_read :
    (draining.ch 0).trig = .i2cMst ∧ rowAdmitted draining.par (draining.rowAddr 0) = true ∧
    draining.readRow (draining.rowAddr 0) = rowOf (masterTransfer draining.par draining.me) ∧ Memory.wf draining.mem ∧
    badMasterBuffer draining.par draining.me.ptr (BitVec.ofNat 32 draining.me.len.toNat) = false ∧
    1 ≤ (draining.ch 0).rem.toNat ∧ (draining.ch 0).rem.toNat ≤ draining.me.len.toNat ∧
    memAdmit draining.par 0x10000400 1 = true ∧ draining.me.dir = .r := by decide

/-- The clause on any row: the row of the other direction, so the port is written while full, or read while empty. -/
theorem witness_MasterElementStep_changed :
    let early := draining.writeRow 0x10000200 (rowOf (masterTransfer on.par (oneByte .data .w true)))
    let late := loading.writeRow 0x10000200 (rowOf (masterTransfer on.par (oneByte .data .r false)))
    let row := fun s : State => s.readRow (s.rowAddr 0)
    (SeqMayMove early 0 ∧ SeqMayMove late 0) ∧ (Memory.wf early.mem ∧ Memory.wf late.mem) ∧
    (rowAdmitted early.par (early.rowAddr 0) = true ∧ rowAdmitted late.par (late.rowAddr 0) = true) ∧
    (rowWellFormed (row early) = true ∧ rowWellFormed (row late) = true) ∧
    (cfgWidth (row early).cfg = 0 ∧ cfgWidth (row late).cfg = 0) ∧
    ((early.ch 0).rem.toNat ≤ cfgCount (row early).cfg ∧ (late.ch 0).rem.toNat ≤ cfgCount (row late).cfg) ∧
    ((early.ch 0).trig = .i2cMst ∧ (late.ch 0).trig = .i2cMst ∧ (early.ch 0).rem = 1 ∧ (late.ch 0).rem = 1) ∧
    ((row early).dstEnd = early.par.aMstdat ∧ early.me.full = true ∧ memAdmit early.par (row early).srcEnd.toNat 1 = true) ∧
    ((row late).srcEnd = late.par.aMstdat ∧ late.me.full = false ∧
      memAdmit late.par (row late).dstEnd.toNat 1 = true) := by
  simp only [← seqEnabled_iff]; decide

theorem witness_AnArmedTransfer :
    held.inp.clkDma = true ∧ held.dcm.en = true ∧ Memory.wf held.mem ∧ (0 : ChIdx).toNat < held.nCh ∧ (held.ch 0).own = .held ∧
    validTransfer held.par copy4 false = true ∧ copy4.srcInc = true ∧ copy4.dstInc = true ∧
    copy4.count.toNat * 2 ^ copy4.width = 16 ∧ memAdmit held.par copy4.src.toNat 16 = true ∧
    memAdmit held.par copy4.dst.toNat 16 = true ∧ copy4.src.toNat + 16 ≤ copy4.dst.toNat ∧
    held.dcm.base.toNat + 16 * held.nCh ≤ copy4.src.toNat := by decide

/-- A fixed source and a fixed destination, with the smallest regions they need. -/
theorem witness_AnArmedTransfer_fixed :
    validTransfer held.par { copy4 with srcInc := false, srcLen := 4 } false = true ∧
    validTransfer held.par { copy4 with dstInc := false, dstLen := 4 } false = true ∧
    memAdmit held.par copy4.src.toNat 4 = true ∧ memAdmit held.par copy4.dst.toNat 4 = true := by decide

theorem witness_HostAccesses :
    ((0x40050027#32).toNat ≤ two.par.aMstdat.toNat ∧ two.par.aMstdat.toNat < (0x40050027#32).toNat + AccWidth.two.bytes) ∧
    ¬ (two.par.aMstdat.toNat < (0x40050026#32).toNat + AccWidth.two.bytes) ∧
    memAdmit two.par (0x40050026#32).toNat AccWidth.two.bytes = false ∧
    memAdmit two.par (0x10003FFC#32).toNat AccWidth.four.bytes = true ∧ ¬ (two.par.aMstdat.toNat < (0x10003FFC#32).toNat + 4) := by
  decide

theorem witness_FramingStarts :
    started.inp.clkI2c = true ∧ started.me.phase = .start ∧ started.bus.phase = .idle ∧ started.par.multiMaster = false ∧
    ({ started with par := { Params.suggested with multiMaster := true } }).par.multiMaster = true ∧
    (0x40#8 : Byte) ≠ BitVec.ofNat 8 (2 * started.me.addr.toNat + 0) := by decide

theorem witness_FramingDrives :
    loaded.inp.clkI2c = true ∧ loaded.me.phase = .data ∧ loaded.me.dir = .w ∧ loaded.bus.init = .own ∧
    loaded.bus.phase = .wIdle ∧ loaded.me.full = true ∧ loaded.par.multiMaster = false ∧
    ({ loaded with par := { Params.suggested with multiMaster := true } }).par.multiMaster = true ∧ (0x15#8 : Byte) ≠ loaded.me.dat := by
  decide

/-- The ends of a transaction: all bytes sent; a byte stored with more to come and without; a NACK; an abort. -/
theorem witness_FramingEnds :
    let sent := { loading with me := { oneByte .data .w false with k := 1 } }
    let stored := fun k : Count => { draining with me := { oneByte .data .r false with k := k } }
    let nacked := fun p : MPhase => { loading with me := oneByte p .w false, bus := ⟨.ended, .own, .extSlv, .w, 0x48⟩ }
    let gone := fun d : Dir => if d = .w then loading.setCh 0 { masterChan with err := .dmaAbort, active := false }
      else draining.setCh 0 { masterChan with err := .dmaAbort, active := false }
    (sent.inp.clkI2c = true ∧ sent.bus.init = .own ∧ sent.me.phase = .data ∧ sent.me.dir = .w ∧ sent.bus.phase = .wIdle ∧
      sent.me.k = sent.me.len ∧ sent.me.full = false) ∧
    ((stored 0).me.phase = .data ∧ (stored 0).me.dir = .r ∧ (stored 0).bus.phase = .rAckwait ∧ (stored 0).me.full = false ∧
      ((stored 0).ch (stored 0).me.ch).err = .none ∧ (stored 0).me.k.toNat < (stored 0).me.len.toNat ∧
      (stored 1).me.len.toNat ≤ (stored 1).me.k.toNat) ∧
    ((nacked .addr).me.phase = .addr ∧ (nacked .data).me.phase = .data ∧ (nacked .data).bus.phase = .ended) ∧
    ((gone .w).me.phase = .data ∧ ((gone .w).ch (gone .w).me.ch).err = .dmaAbort ∧ (gone .w).me.dir = .w ∧
      (gone .w).bus.phase = .wIdle ∧ (gone .r).me.dir = .r ∧ (gone .r).bus.phase = .rAckwait) := by decide

/-- A bus with an external slave or nobody as target, in each phase. -/
def outer (p : BusPhase) (t : Target) (who : Initiator) : State := { two with bus := ⟨p, who, t, .w, 0⟩ }

theorem witness_OtherDevices_ExternalMasters :
    (outer .addr .none .own).bus.tgt = .none ∧ (outer .addr .extSlv .own).bus.phase = .addr ∧
    (outer .wAckwait .extSlv .own).bus.phase = .wAckwait ∧ (outer .rDatawait .extSlv .own).bus.tgt = .extSlv ∧
    two.bus.phase = .idle ∧ (outer .wIdle .extSlv .ext).bus.init = .ext ∧ (outer .rAckwait .extSlv .ext).bus.phase = .rAckwait ∧
    (outer .ended .none .ext).bus.phase = .ended := by decide

/-- An external master writing to the own slave. -/
theorem witness_ExternalMasters_ownSlave :
    let s := slaveIn .wIdle .ext .w 0 false
    s.bus.init = .ext ∧ s.bus.phase = .wIdle ∧ s.bus.tgt = .ownSlv ∧ s.sl.fatal = false ∧ s.sl.pend.toNat < 4 := by decide

/-- The reports that are not enabled, each cause. -/
theorem witness_Timeouts_disabled :
    two.me.phase = .idle ∧ (oneByte .pending .w false).phase = .pending ∧ (oneByte .done .w false).phase = .done ∧
    Params.suggested.busTimeout = .never ∧ two.sl.en = false ∧ dead.sl.fatal = true ∧ (3 : EvCode).toNat < 4 ∧
    4 ≤ (slaveIn .addr .own .w 4 false).sl.pend.toNat := by decide

theorem witness_Timeouts :
    ({ loading with par := { Params.suggested with busTimeout := .may } }).par.busTimeout = .may ∧ loading.me.phase = .data ∧
    started.me.phase = .start ∧ loading.par.busTimeout = .never ∧ loading.bus.phase ≠ .idle ∧
    ({ Params.suggested with slvFaults := [8, 9] }).slvFaults.contains 8 = true ∧ 4 ≤ (4 : EvCode).toNat ∧
    ({ Params.suggested with slvFaults := [4] }).slvFaults.contains 4 = true ∧ Params.suggested.slvFaults.contains 8 = false ∧
    (slaveIn .addr .own .w 3 false).sl.pend.toNat < 4 ∧ (slaveIn .addr .own .w 3 false).sl.en = true ∧
    (slaveIn .addr .own .w 3 false).sl.fatal = false := by decide

theorem witness_HungBus :
    (drawing .hung).bus.phase = .hung ∧ goesOn (takeTurn (.host .int) (drawing .hung)) = true ∧ Turn.host .int ≠ .reset := by decide

/-- The slave's invariant in mid-transaction: the own master has addressed the own slave and waits. -/
def looped : State :=
  { started with
    me := oneByte .addr .w false
    sl := (slaveIn .addr .own .w 1 false).sl
    bus := ⟨.addr, .own, .ownSlv, .w, 0x48⟩
    int := ⟨[⟨0x21000000#32, []⟩], none⟩
    sched := [.host .int] }

theorem witness_SlaveBusOk : SlaveBusOk looped := by constructor <;> decide

/-- What holds of channel 0 and of a channel after reset holds of every channel of a state with one channel in use. -/
theorem forall_ch (s : State) (x : Chan) (h : s.chans = [x, Chan.reset]) (P : ChIdx → Chan → Prop) (h0 : P 0 x)
    (hr : ∀ c, P c Chan.reset) (c : ChIdx) : P c (s.ch c) := by
  by_cases hc : c = 0
  · subst hc
    simpa [State.ch, h] using h0
  · have : s.ch c = Chan.reset := by
      have h0 : c.toNat ≠ 0 := fun e => hc (BitVec.eq_of_toNat_eq e)
      by_cases h1 : c.toNat = 1
      · simp [State.ch, h, h1]
      · exact ch_absent s c (by simp [State.nCh, h]; omega)
    rw [this]
    exact hr c

/-- A context blocked in CH.WAIT whose Transfer is over, and one in M.WAIT whose transaction is. -/
def chWaiting : State :=
  { on with chans := [{ masterChan with trig := .sw, active := false, rem := 0 }, Chan.reset], fg := ⟨[], some (.chWait 0)⟩ }
def mWaiting : State :=
  { on with
    chans := [{ masterChan with active := false, rem := 0 }, Chan.reset]
    me := { oneByte .done .w false with k := 1 }
    fg := ⟨[], some (.mWait 0)⟩ }

/-- A write whose byte is on the bus and acknowledged: step `wdone` is enabled. -/
def sent : State :=
  { loading with
    chans := [{ masterChan with active := false, rem := 0 }, Chan.reset], me := { oneByte .data .w false with k := 1 } }

/-- The fields of `MasterOk` about every channel, from the one channel in use. -/
theorem channels_ok (s : State) (x : Chan) (h : s.chans = [x, Chan.reset])
    (h0 : (x.active = true → x.own = .xfer ∧ s.dcm.en = true ∧ x.enabled = true ∧ 1 ≤ x.rem.toNat) ∧
      (x.own = .xfer → x.trig = .i2cMst → 0 = s.me.ch ∧ s.me.phase ≠ .idle) ∧ (x.err ≠ .none → x.active = false) ∧
      (x.err = .periphNack → 0 = s.me.ch ∧ s.me.phase = .done)) (c : ChIdx) :
    ((s.ch c).active = true → (s.ch c).own = .xfer ∧ s.dcm.en = true ∧ (s.ch c).enabled = true ∧ 1 ≤ (s.ch c).rem.toNat) ∧
    ((s.ch c).own = .xfer → (s.ch c).trig = .i2cMst → c = s.me.ch ∧ s.me.phase ≠ .idle) ∧
    ((s.ch c).err ≠ .none → (s.ch c).active = false) ∧ ((s.ch c).err = .periphNack → c = s.me.ch ∧ s.me.phase = .done) :=
  forall_ch s x h (fun c y => (y.active = true → y.own = .xfer ∧ s.dcm.en = true ∧ y.enabled = true ∧ 1 ≤ y.rem.toNat) ∧
    (y.own = .xfer → y.trig = .i2cMst → c = s.me.ch ∧ s.me.phase ≠ .idle) ∧ (y.err ≠ .none → y.active = false) ∧
    (y.err = .periphNack → c = s.me.ch ∧ s.me.phase = .done)) h0
    (fun _ => ⟨nofun, nofun, fun _ => rfl, nofun⟩) c

/-- The master's invariant holds in mid-transaction, with INT about to service the address match. -/
theorem witness_MasterOk : MasterOk looped := by
  have hc := channels_ok looped masterChan rfl (by decide)
  constructor
  case armed => exact fun c => (hc c).1
  case taken => exact fun _ _ => rfl
  case masterChannel => exact fun c => (hc c).2.1
  case errStopped => exact fun c => (hc c).2.2.1
  case nackDone => exact fun c => (hc c).2.2.2
  case chHold => exact fun _ h => nomatch h
  case mHold => exact fun _ h => nomatch h
  all_goals decide

/-- It holds where `wdone` is enabled, with no write into the table. -/
theorem witness_FramingStepEnabled : MasterOk sent ∧ sent.haz.descWrite = false ∧ mfuEnabled .wdone sent = true := by
  refine ⟨?_, rfl, by decide⟩
  have hc := channels_ok sent { masterChan with active := false, rem := 0 } rfl (by decide)
  constructor
  case armed => exact fun c => (hc c).1
  case taken => exact fun _ _ => rfl
  case masterChannel => exact fun c => (hc c).2.1
  case errStopped => exact fun c => (hc c).2.2.1
  case nackDone => exact fun c => (hc c).2.2.2
  case chHold => exact fun _ h => nomatch h
  case mHold => exact fun _ h => nomatch h
  all_goals decide

/-- A turn of the host that ends a CH.WAIT. -/
theorem witness_Ownership_chWait :
    MasterOk chWaiting ∧ (after (takeTurn (.host .fg) chWaiting)).ch 0 ≠ chWaiting.ch 0 ∧ chWaiting.ctx .fg = ⟨[], some (.chWait 0)⟩ ∧
    IntServesOnly chWaiting := by
  refine ⟨?_, by decide, rfl, rfl, by decide⟩
  have hc := channels_ok chWaiting { masterChan with trig := .sw, active := false, rem := 0 } rfl (by decide)
  constructor
  case armed => exact fun c => (hc c).1
  case taken => exact fun _ _ => rfl
  case masterChannel => exact fun c => (hc c).2.1
  case errStopped => exact fun c => (hc c).2.2.1
  case nackDone => exact fun c => (hc c).2.2.2
  case chHold => intro c h; cases h; decide
  case mHold => exact fun _ h => nomatch h
  all_goals decide

/-- A turn of the host that ends an M.WAIT. -/
theorem witness_Ownership_mWait :
    MasterOk mWaiting ∧ (after (takeTurn (.host .fg) mWaiting)).ch 0 ≠ mWaiting.ch 0 ∧ mWaiting.ctx .fg = ⟨[], some (.mWait 0)⟩ ∧
    IntServesOnly mWaiting := by
  refine ⟨?_, by decide, rfl, rfl, by decide⟩
  have hc := channels_ok mWaiting { masterChan with active := false, rem := 0 } rfl (by decide)
  constructor
  case armed => exact fun c => (hc c).1
  case taken => exact fun _ _ => rfl
  case masterChannel => exact fun c => (hc c).2.1
  case errStopped => exact fun c => (hc c).2.2.1
  case nackDone => exact fun c => (hc c).2.2.2
  case chHold => exact fun _ h => nomatch h
  case mHold => intro c h; cases h; decide
  all_goals decide

theorem witness_IntServesOnly : IntServesOnly looped := ⟨rfl, by decide⟩

theorem witness_TableOk_looped : TableOk looped := fun _ => by decide

/-- The step of the statements over invariants goes on there, moves the bus and the master, and records a symbol. -/
theorem witness_InvariantSteps :
    goesOn (step looped) = true ∧ goesOn (takeTurn (.host .int) looped) = true ∧
    (after (takeTurn (.host .int) looped)).bus ≠ looped.bus ∧ (after (takeTurn (.host .int) looped)).bus.phase ≠ .hung ∧
    looped.bus.phase ≠ .hung ∧ goesOn (exec .sService looped) = true ∧ (after (exec .sService looped)).bus ≠ looped.bus ∧
    Turn.host .int ≠ .reset ∧ Turn.host .int ≠ .env .timeout ∧ looped.me.phase = .addr := by decide

/-- The interrupt line is 1 there, and the service lowers it; in a read it stays up. -/
theorem witness_InterruptLine :
    looped.sIrq = true ∧ goesOn (takeTurn (.host .int) looped) = true ∧ (after (takeTurn (.host .int) looped)).sIrq = false ∧
    goesOn (exec .sService looped) = true ∧ (slaveIn .addr .ext .r 1 false).sIrq = true ∧
    (after (exec .sService (slaveIn .addr .ext .r 1 false))).sIrq = true := by decide

theorem witness_Memory_wf_looped : Memory.wf looped.mem ∧ Memory.wf State.reset.mem := by decide

theorem witness_InputsOn : InputsOn looped := ⟨rfl, rfl, rfl⟩

/-- A run that begins with a RESET step. -/
theorem witness_Run :
    IsRunFromReset (fun _ => .reset) (fun _ => State.reset) ∧ Memory.wf State.reset.mem ∧ Turn.reset.servesOnly = true ∧
    (∀ p ∈ State.reset.int.prog, decode p = none ∨ decode p = some .sService) := by
  have h : resetEngine State.reset = State.reset := by decide
  exact ⟨⟨fun _ => congrArg Host.Outcome.next h, State.reset, congrArg Host.Outcome.next h⟩, by decide, rfl, by decide⟩

/-- A packet the host decides on later is issued, so a run may issue operations without end. -/
theorem test_append_extends_the_program :
    let s := after (takeTurn (.outside (.append .int ⟨0x21000000#32, []⟩)) two)
    s.int.prog = [⟨0x21000000#32, []⟩] ∧ s.fg = two.fg ∧
    response (after (takeTurn (.host .int) s)) = some 0x00000001#32 := by decide

theorem witness_ScheduleServesOnly : ScheduleServesOnly looped := by
  unfold ScheduleServesOnly; decide

/-- A run on which FG is blocked in CH.WAIT, the channel's last element moves, and the WAIT returns. -/
def waiting : State := { after (exec (.chArm 0 { copy4 with count := 1 }) held) with fg := ⟨[], some (.chWait 0)⟩ }
def returned : State := after (takeTurn (.host .fg) (seqStep 0 waiting))
def fairStates : Nat → State
  | 0 => waiting
  | 1 => seqStep 0 waiting
  | _ + 2 => returned
def fairTurns : Nat → Turn
  | 0 => .seq 0
  | _ + 1 => .host .fg

theorem eq_next_after {r : Result} (h : goesOn r = true) : r = .next (after r) := by
  cases r <;> first | rfl | exact absurd h (by simp [goesOn])

theorem fair_isRun : IsRun fairTurns fairStates
  | 0 => rfl
  | 1 => eq_next_after (by decide)
  | _ + 2 => by
    have h : after (takeTurn (.host .fg) returned) = returned := by decide
    exact (eq_next_after (r := takeTurn (.host .fg) returned) (by decide)).trans (congrArg _ h)

/-- A run on which the host goes on polling and FG's WAIT is lifted from the second state on. -/
theorem witness_BlockedWaits_run :
    IsRun fairTurns fairStates ∧ FairHost fairTurns fairStates ∧ ((fairStates 1).ctx .fg).hold = some (.chWait 0) ∧
    (∀ m, 1 ≤ m → fairTurns m ≠ .reset ∧ (fairStates m).int.hold = none ∧
      (((fairStates m).ctx .fg).hold = some (.chWait 0) →
        ¬ (((fairStates m).ch 0).active = true ∧ ((fairStates m).ch 0).err = .none))) := by
  have hn : ∀ x : Ctx, (returned.ctx x).hold = none := fun x => by cases x <;> decide
  refine ⟨fair_isRun, fun x n h => ?_, rfl, fun m hm => ?_⟩
  · obtain ⟨-, k, hk, -⟩ := h (n + 2) (by omega)
    exact absurd ((hn x).symm.trans hk) nofun
  · match m, hm with
    | 1, _ => exact ⟨nofun, rfl, fun _ => by decide⟩
    | _ + 2, _ => exact ⟨nofun, hn .int, fun h => absurd ((hn .fg).symm.trans h) nofun⟩

end Sys2Proof.Tests
end

section
/-! PROOFS. The two WAITs: what a turn of a blocked context does, that no other turn but RESET touches its hold, and that a WAIT
whose condition stays true returns (R10, R146, R204, R331, R373). -/

namespace Sys2Proof.Machine

/-! ### The turn of a blocked context -/

theorem setCur_ctx (s : State) (c x : Ctx) : (s.setCur c).ctx x = s.ctx x := by
  cases x <;> rfl

theorem setHold_ctx_same (s : State) (x : Ctx) (h : Option Hold) : (s.setHold x h).ctx x = { s.ctx x with hold := h } := by
  cases x <;> rfl

theorem setCtx_ctx_other (s : State) {x c : Ctx} (hx : x ≠ c) (k : HostCtx) : (s.setCtx c k).ctx x = s.ctx x := by
  match x, c with
  | .fg, .int => rfl
  | .int, .fg => rfl
  | .fg, .fg => exact absurd rfl hx
  | .int, .int => exact absurd rfl hx

theorem setHold_ctx_other (s : State) {x c : Ctx} (hx : x ≠ c) (h : Option Hold) : (s.setHold c h).ctx x = s.ctx x :=
  setCtx_ctx_other s hx _

theorem setHold_self {s : State} {x : Ctx} {h : Option Hold} (hh : (s.ctx x).hold = h) : s.setHold x h = s := by
  subst hh
  cases x <;> rfl

theorem ctx_congr {s t : State} (hf : t.fg = s.fg) (hi : t.int = s.int) (x : Ctx) : t.ctx x = s.ctx x := by
  cases x
  · exact hf
  · exact hi

/-- Whether a hold is lifted does not depend on the running context. -/
@[simp] theorem holdLifted_setCur (s : State) (x : Ctx) (h : Hold) : (s.setCur x).holdLifted h = s.holdLifted h := by
  cases h <;> rfl

theorem holdLifted_chWait_iff (s : State) (c : ChIdx) :
    s.holdLifted (.chWait c) = true ↔ ¬ ((s.ch c).active = true ∧ (s.ch c).err = .none) := by
  cases h : (s.ch c).active <;> simp [State.holdLifted, h]

theorem holdLifted_mWait_iff (s : State) (c : ChIdx) :
    s.holdLifted (.mWait c) = true ↔ s.me.phase = .done ∧ (s.ch c).active = false := by
  simp [State.holdLifted]

/-- INT always runs; FG runs while INT is not blocked (R331, R338). -/
theorem ctxRuns_iff (x : Ctx) (s : State) : ctxRuns x s = true ↔ (x = .fg → s.int.hold = none) := by
  cases x <;> simp [ctxRuns]

/-- A context that may not run lets its turn pass. -/
theorem hostTurn_of_not_runs {x : Ctx} {s : State} (hr : ctxRuns x s = false) : takeTurn (.host x) s = .next s := by
  simp [takeTurn, hostTurn, hr]

section
variable {s : State} {x : Ctx} {h : Hold} (hr : ctxRuns x s = true) (hh : (s.ctx x).hold = some h)
include hr hh

/-- A blocked context that may run looks at its hold and issues nothing. -/
theorem hostTurn_of_blocked : takeTurn (.host x) s = holdOrFinish h (s.setCur x) := by
  simp [takeTurn, hostTurn, hr, hh]

/-- While the condition does not hold, the turn changes the running context only (R10). -/
theorem hostTurn_of_not_lifted (hl : s.holdLifted h = false) : takeTurn (.host x) s = .next { s with cur := x } := by
  rw [hostTurn_of_blocked hr hh]
  obtain ⟨hl', -⟩ | ⟨-, e⟩ := holdOrFinish_cases h (s.setCur x)
  · simp [hl] at hl'
  · rw [e, setCur_cur, setHold_self (by rw [setCur_ctx, hh])]
    rfl

/-- As soon as the condition holds, the operation ends in the context that was blocked in it. -/
theorem hostTurn_of_lifted (hl : s.holdLifted h = true) :
    takeTurn (.host x) s = finishWait h ((s.setCur x).setHold x none) := by
  rw [hostTurn_of_blocked hr hh]
  obtain ⟨-, e⟩ | ⟨hl', -⟩ := holdOrFinish_cases h (s.setCur x)
  · exact e
  · simp [hl] at hl'

end

/-- How CH.WAIT ends (R146). -/
theorem finishWait_chWait (c : ChIdx) (s : State) :
    finishWait (.chWait c) s = .next ((s.setCh c (releasedChan (s.ch c))).record
      (.op s.cur (.op (.chWait c)) (reply c 0 (chWaitStatus (s.ch c).err).code.toNat))) := by
  simp [finishWait, finish, answer, responseWord_eq, Instr.chField]

/-- How M.WAIT ends (R204). -/
theorem finishWait_mWait (c : ChIdx) (s : State) :
    finishWait (.mWait c) s =
      .next (((s.setCh c (releasedChan (s.ch c))).setMe { s.me with fault := .none, full := false, phase := .idle }).record
        (.op s.cur (.op .mWait) (reply c 0 (mWaitStatus s.me.fault (s.ch c).err).code.toNat))) := by
  simp [finishWait, answer, responseWord_eq]

/-- The end of a WAIT leaves both host contexts alone: the hold is cleared before it. -/
theorem finishWait_keeps_hosts (h : Hold) (s : State) : ∃ t, finishWait h s = .next t ∧ t.fg = s.fg ∧ t.int = s.int := by
  cases h with
  | chWait c => exact ⟨_, finishWait_chWait c s, rfl, rfl⟩
  | mWait c => exact ⟨_, finishWait_mWait c s, rfl, rfl⟩

/-- What a WAIT of context `x` on channel `c` leaves when it returns: the context unblocked, the channel HELD again, the
master as given, the response recorded, and every other register and memory as before (R146, R204). -/
def WaitEnds (s t : State) (x : Ctx) (i : Instr) (c : ChIdx) (me : Master) (status : Nat) : Prop :=
  (t.ctx x).hold = none ∧ (t.ctx x).prog = (s.ctx x).prog ∧
  t.ch c = { s.ch c with own := .held, active := false, err := .none, src := .empty, dst := .empty } ∧
  OtherChansKept s t c ∧ t.me = me ∧ t.sl = s.sl ∧ t.bus = s.bus ∧ t.mem = s.mem ∧ t.dcm = s.dcm ∧
  t.trace = s.trace ++ [.op x (.op i) (reply c 0 status)]

/-- The state in which a WAIT of context `x` on channel `c` has returned. -/
def State.waitReturned (s : State) (x : Ctx) (i : Instr) (c : ChIdx) (me : Master) (status : Nat) : State :=
  ((((s.setCur x).setHold x none).setCh c (releasedChan (s.ch c))).setMe me).record (.op x (.op i) (reply c 0 status))

theorem waitReturned_ctx (s : State) (x : Ctx) (i : Instr) (c : ChIdx) (me : Master) (status : Nat) :
    (s.waitReturned x i c me status).ctx x = { s.ctx x with hold := none } := by
  cases x <;> rfl

theorem waitReturned_ends {s : State} {c : ChIdx} (hc : c.toNat < s.nCh) (x : Ctx) (i : Instr) (me : Master) (status : Nat) :
    WaitEnds s (s.waitReturned x i c me status) x i c me status := by
  have hch : ∀ d, (s.waitReturned x i c me status).ch d = (s.setCh c (releasedChan (s.ch c))).ch d :=
    ch_congr (by simp [State.waitReturned])
  unfold WaitEnds
  rw [waitReturned_ctx, hch, ch_setCh_same s c _ hc]
  refine ⟨rfl, rfl, rfl, fun d hd => ?_, ?_⟩
  · rw [hch, ch_setCh_other s c d _ hd]
  · simp [State.waitReturned]

section
variable {s : State} {x : Ctx} {c : ChIdx} (hr : ctxRuns x s = true)
include hr

/-- The turn at which CH.WAIT returns (R146). -/
theorem hostTurn_chWait_returns (hh : (s.ctx x).hold = some (.chWait c)) (hl : s.holdLifted (.chWait c) = true) :
    takeTurn (.host x) s =
      .next (s.waitReturned x (.chWait c) c s.me (chWaitStatus (s.ch c).err).code.toNat) := by
  have hch : ((s.setCur x).setHold x none).ch c = s.ch c := ch_congr (by simp) c
  have hme : s.me = ((s.setCur x).setHold x none).me := by simp
  rw [hostTurn_of_lifted hr hh hl, finishWait_chWait, hch, setHold_cur, setCur_cur]
  rw [State.waitReturned, hme]
  rfl

/-- The turn at which M.WAIT returns (R204). -/
theorem hostTurn_mWait_returns (hh : (s.ctx x).hold = some (.mWait c)) (hl : s.holdLifted (.mWait c) = true) :
    takeTurn (.host x) s =
      .next (s.waitReturned x .mWait c { s.me with fault := .none, full := false, phase := .idle }
        (mWaitStatus s.me.fault (s.ch c).err).code.toNat) := by
  have hch : ((s.setCur x).setHold x none).ch c = s.ch c := ch_congr (by simp) c
  rw [hostTurn_of_lifted hr hh hl, finishWait_mWait, hch, setHold_cur, setCur_cur, setHold_me, setCur_me]
  rfl

/-- The turn of a context whose hold is lifted frees it. -/
theorem hostTurn_frees {h : Hold} (hh : (s.ctx x).hold = some h) (hl : s.holdLifted h = true) :
    ∃ t, takeTurn (.host x) s = .next t ∧ (t.ctx x).hold = none := by
  cases h with
  | chWait c => exact ⟨_, hostTurn_chWait_returns hr hh hl, by rw [waitReturned_ctx]⟩
  | mWait c => exact ⟨_, hostTurn_mWait_returns hr hh hl, by rw [waitReturned_ctx]⟩

end

/-- The status of CH.WAIT as a number (R105, R146). -/
theorem chWaitStatus_code (e : ChErr) :
    (chWaitStatus e).code.toNat = (match e with | .dmaAbort => 0x30 | .periphNack => 0x31 | .none => 0x00) := by
  cases e <;> rfl

/-- The status of M.WAIT as a number: the fault of the master first (R105, R204, R205). -/
theorem mWaitStatus_code (f : MFault) (e : ChErr) :
    (mWaitStatus f e).code.toNat =
      (match f, e with
       | .nackAddr, _ => 0x20 | .nackData, _ => 0x21 | .arbLost, _ => 0x22 | .busTimeout, _ => 0x23
       | .none, .dmaAbort => 0x30 | .none, _ => 0x00) := by
  cases f <;> cases e <;> rfl

/-! ### What the agents leave of the host contexts -/

/-- Neither host context has changed. -/
def HostsKept (s t : State) : Prop := t.fg = s.fg ∧ t.int = s.int

theorem HostsKept.ctx {s t : State} (h : HostsKept s t) (x : Ctx) : t.ctx x = s.ctx x := ctx_congr h.1 h.2 x

theorem moveElement_keeps_hosts (c : ChIdx) (row : Row) (s : State) : HostsKept s (moveElement c row s) := by
  simp only [moveElement, readEndpoint, writeEndpoint, countElement, noteMove]
  split <;> split <;> simp [HostsKept]

theorem seqStep_keeps_hosts (c : ChIdx) (s : State) : HostsKept s (seqStep c s) := by
  unfold seqStep
  split_ifs
  · exact ⟨rfl, rfl⟩
  · exact ⟨abort_fg s c, abort_int s c⟩
  · exact ⟨abort_fg s c, abort_int s c⟩
  · exact moveElement_keeps_hosts c _ s

theorem mfuStart_keeps_hosts (arb : Arb) (present : Bool) (s : State) : HostsKept s (mfuStart arb present s) := by
  simp only [mfuStart]
  split <;> simp [HostsKept]

theorem mfuWdrive_keeps_hosts (arb : Arb) (s : State) : HostsKept s (mfuWdrive arb s) := by
  simp only [mfuWdrive]
  split <;> simp [HostsKept]

theorem mfuRrespond_keeps_hosts (s : State) : HostsKept s (mfuRrespond s) := by
  unfold mfuRrespond
  split_ifs <;> simp [HostsKept]

theorem mfuDabort_keeps_hosts (s : State) : HostsKept s (mfuDabort s) := by
  unfold mfuDabort
  cases s.me.dir <;> exact ⟨rfl, rfl⟩

theorem mfuStep_keeps_hosts (m : MfuStep) (s : State) : HostsKept s (mfuStep m s) := by
  unfold mfuStep
  split_ifs
  · exact ⟨rfl, rfl⟩
  · cases m with
    | start arb present => exact mfuStart_keeps_hosts arb present s
    | wdrive arb => exact mfuWdrive_keeps_hosts arb s
    | wdone => exact ⟨rfl, rfl⟩
    | rrespond => exact mfuRrespond_keeps_hosts s
    | nack => exact ⟨rfl, rfl⟩
    | dabort => exact mfuDabort_keeps_hosts s

theorem busStep_keeps_hosts (s : State) : HostsKept s (busStep s) := by
  unfold busStep
  split_ifs <;> exact ⟨rfl, rfl⟩

theorem envTimeout_keeps_hosts (s : State) : HostsKept s (envTimeout s) := by
  simp only [envTimeout]
  split_ifs <;> simp [HostsKept]

theorem envStep_keeps_hosts (e : EnvStep) (s : State) : HostsKept s (envStep e s) := by
  unfold envStep
  split_ifs
  · exact ⟨rfl, rfl⟩
  · cases e with
    | xsAddr ack => cases ack <;> simp [HostsKept, envXsAddr]
    | xsWdata ack => cases ack <;> exact ⟨rfl, rfl⟩
    | xsRdata b => exact ⟨supplyData_fg s _ b, supplyData_int s _ b⟩
    | xmStart a7 rw present => exact ⟨driveAddress_fg s _ _ present, driveAddress_int s _ _ present⟩
    | xmWdata b => exact ⟨driveData_fg s _ b, driveData_int s _ b⟩
    | xmRresp ack => cases ack <;> simp [HostsKept, envXmRresp]
    | xmStop => exact ⟨rfl, rfl⟩
    | xmRestart a7 rw present => simp [HostsKept, envXmRestart]
    | timeout => exact envTimeout_keeps_hosts s
    | slvFault code => exact ⟨rfl, rfl⟩

/-- An outside party leaves what a context is blocked in alone, though it may give the context one more packet. -/
theorem outsideStep_keeps_hold {o : OutsideStep} {s t : State} (h : outsideStep o s = .next t) (x : Ctx) :
    (t.ctx x).hold = (s.ctx x).hold := by
  cases o with
  | append c p =>
    cases h
    cases c <;> cases x <;> rfl
  | load a w =>
    simp only [outsideStep, hostAccess] at h
    split_ifs at h
    cases h
    cases x <;> rfl
  | store a w v =>
    simp only [outsideStep, hostAccess] at h
    split_ifs at h
    cases h
    cases x <;> rfl
  | clkDma on => cases h; cases x <;> rfl
  | clkI2c on => cases h; cases x <;> rfl
  | pins ok => cases h; cases x <;> rfl

/-! ### What an operation leaves of the other context -/

/-- Whatever next state an operation begun in `s` has, context `x` is there as it was. -/
def CtxKept (x : Ctx) (s : State) (r : Result) : Prop := ∀ t, r = .next t → t.ctx x = s.ctx x

theorem ctxKept_next {x : Ctx} {s t : State} (h : t.ctx x = s.ctx x) : CtxKept x s (.next t) := by
  rintro _ ⟨⟩
  exact h

theorem ctxKept_answer {x : Ctx} {s u : State} {i : Instr} {st : Status} {info : BitVec 8} {c : ChIdx}
    (h : u.ctx x = s.ctx x) : CtxKept x s (answer i st info c u) :=
  ctxKept_next ((ctx_congr rfl rfl x).trans h)

theorem ctxKept_finish {x : Ctx} {s u : State} {i : Instr} {st : Status} (h : HostsKept s u) : CtxKept x s (finish i st u) :=
  ctxKept_answer (h.ctx x)

theorem ctxKept_withInputs {x : Ctx} {s : State} {k : Result} {i : Instr} (h : CtxKept x s k) :
    CtxKept x s (withInputs i s k) :=
  fun t ht => h t (withInputs_next ht).2

theorem ctxKept_fault (x : Ctx) (s : State) (f : Fault) : CtxKept x s (.fault f) := by
  rintro t ⟨⟩

/-- A WAIT touches the hold of the running context only. -/
theorem ctxKept_holdOrFinish {x : Ctx} {s : State} (hx : x ≠ s.cur) (h : Hold) : CtxKept x s (holdOrFinish h s) := by
  obtain ⟨-, e⟩ | ⟨-, e⟩ := holdOrFinish_cases h s
  · obtain ⟨t, ht, hf, hi⟩ := finishWait_keeps_hosts h (s.setHold s.cur none)
    rw [e, ht]
    exact ctxKept_next ((ctx_congr hf hi x).trans (setHold_ctx_other s hx none))
  · rw [e]
    exact ctxKept_next (setHold_ctx_other s hx (some h))

theorem buildDescriptor_keeps_hosts {c : ChIdx} {t : Transfer} {s s1 : State} (h : buildDescriptor c t s = some s1) :
    HostsKept s s1 := by
  unfold buildDescriptor at h
  split_ifs at h
  cases h
  exact ⟨writeRow_fg s _ _, writeRow_int s _ _⟩

theorem execDmaEnable_keeps_ctx (x : Ctx) (base : Word) (s : State) : CtxKept x s (execDmaEnable base s) := by
  refine ctxKept_withInputs ?_
  split_ifs <;> exact ctxKept_finish ⟨rfl, rfl⟩

theorem execChTake_keeps_ctx (x : Ctx) (c : ChIdx) (s : State) : CtxKept x s (execChTake c s) := by
  refine ctxKept_withInputs ?_
  split_ifs <;> exact ctxKept_finish ⟨rfl, rfl⟩

theorem execChArm_keeps_ctx (x : Ctx) (c : ChIdx) (t : Transfer) (s : State) : CtxKept x s (execChArm c t s) := by
  refine ctxKept_withInputs ?_
  split_ifs
  case neg =>
    cases hb : buildDescriptor c t s with
    | none => exact ctxKept_fault x s _
    | some s1 =>
      obtain ⟨hf, hi⟩ := buildDescriptor_keeps_hosts hb
      exact ctxKept_finish ⟨hf, hi⟩
  all_goals exact ctxKept_finish ⟨rfl, rfl⟩

theorem execChWait_keeps_ctx {x : Ctx} {s : State} (hx : x ≠ s.cur) (c : ChIdx) : CtxKept x s (execChWait c s) := by
  refine ctxKept_withInputs ?_
  split_ifs
  case neg => exact ctxKept_holdOrFinish hx _
  all_goals exact ctxKept_finish ⟨rfl, rfl⟩

theorem describe_keeps_ctx (x : Ctx) (i : Instr) (dir : Dir) (addr : Nat) (ptr len : Word) (c : ChIdx) (s : State) :
    CtxKept x s (describe i dir addr ptr len c s) := by
  refine ctxKept_withInputs ?_
  split_ifs <;> exact ctxKept_finish ⟨rfl, rfl⟩

theorem execMStart_keeps_ctx (x : Ctx) (s : State) : CtxKept x s (execMStart s) := by
  refine ctxKept_withInputs ?_
  split_ifs
  · exact ctxKept_finish ⟨rfl, rfl⟩
  · cases hb : buildDescriptor s.me.ch (masterTransfer s.par s.me) s with
    | none => exact ctxKept_fault x s _
    | some s1 =>
      obtain ⟨hf, hi⟩ := buildDescriptor_keeps_hosts hb
      exact ctxKept_finish ⟨hf, hi⟩

theorem execMWait_keeps_ctx {x : Ctx} {s : State} (hx : x ≠ s.cur) : CtxKept x s (execMWait s) := by
  refine ctxKept_withInputs ?_
  split_ifs
  · exact ctxKept_finish ⟨rfl, rfl⟩
  · exact ctxKept_holdOrFinish hx _

theorem execSEnable_keeps_ctx (x : Ctx) (addr : Nat) (s : State) : CtxKept x s (execSEnable addr s) := by
  refine ctxKept_withInputs ?_
  split_ifs <;> exact ctxKept_finish ⟨rfl, rfl⟩

theorem serviceUnderrun_keeps_hosts (s : State) : HostsKept s (serviceUnderrun s) := by
  unfold serviceUnderrun
  cases s.par.txUnderrun <;> simp [HostsKept]

theorem ctxKept_serviced {x : Ctx} {s u : State} {st : Status} {ev : EvCode} {underrun : Bool} (h : HostsKept s u) :
    CtxKept x s (serviced st ev underrun u) :=
  ctxKept_answer (h.ctx x)

theorem execSService_keeps_ctx (x : Ctx) (s : State) : CtxKept x s (execSService s) := by
  refine ctxKept_withInputs ?_
  split_ifs
  · exact ctxKept_answer rfl
  · exact ctxKept_serviced ⟨rfl, rfl⟩
  · exact ctxKept_serviced ⟨rfl, rfl⟩
  · exact ctxKept_serviced (by simp [HostsKept, serviceAddrMatch])
  · exact ctxKept_serviced (by simp [HostsKept, serviceRxReady])
  · exact ctxKept_serviced (by simp [HostsKept, serviceTxReady])
  · exact ctxKept_serviced (serviceUnderrun_keeps_hosts s)
  · exact ctxKept_serviced ⟨rfl, rfl⟩

/-- An operation leaves the context it is not issued from alone. -/
theorem exec_keeps_ctx {x : Ctx} {s : State} (hx : x ≠ s.cur) (i : Instr) : CtxKept x s (exec i s) := by
  cases i with
  | dmaEnable base => exact execDmaEnable_keeps_ctx x base s
  | chTake c => exact execChTake_keeps_ctx x c s
  | chArm c t => exact execChArm_keeps_ctx x c t s
  | chWait c => exact execChWait_keeps_ctx hx c
  | mWriteAll addr ptr len c => exact describe_keeps_ctx x _ _ addr ptr len c s
  | mReadAll addr ptr len c => exact describe_keeps_ctx x _ _ addr ptr len c s
  | mStart => exact execMStart_keeps_ctx x s
  | mWait => exact execMWait_keeps_ctx hx
  | sEnable addr => exact execSEnable_keeps_ctx x addr s
  | sService => exact execSService_keeps_ctx x s

theorem issue_keeps_ctx {x : Ctx} {s : State} (hx : x ≠ s.cur) (p : Packet) : CtxKept x s (issue p s) := by
  unfold issue
  cases decode p with
  | none => exact ctxKept_next (ctx_congr rfl rfl x)
  | some i => exact exec_keeps_ctx hx i

/-- The turn of a host context leaves the other one alone. -/
theorem hostTurn_keeps_ctx {x c : Ctx} (hx : x ≠ c) (s : State) : CtxKept x s (hostTurn c s) := by
  unfold hostTurn
  split_ifs
  · exact ctxKept_next rfl
  · split
    · exact fun t ht => (ctxKept_holdOrFinish hx _ t ht).trans (setCur_ctx s c x)
    · exact ctxKept_next rfl
    · exact fun t ht => (issue_keeps_ctx hx _ t ht).trans ((setCur_ctx _ c x).trans (setCtx_ctx_other s hx _))

/-- What a context is blocked in is changed by no turn but its own and RESET (R10, R362). -/
theorem takeTurn_keeps_hold {turn : Turn} {s t : State} {x : Ctx} (ht : takeTurn turn s = .next t)
    (hx : turn ≠ .host x) (hr : turn ≠ .reset) : (t.ctx x).hold = (s.ctx x).hold := by
  cases turn with
  | host c => rw [hostTurn_keeps_ctx (fun e => hx (congrArg Turn.host e.symm)) s t ht]
  | seq c => cases ht; rw [(seqStep_keeps_hosts c s).ctx]
  | mfu m => cases ht; rw [(mfuStep_keeps_hosts m s).ctx]
  | bus => cases ht; rw [(busStep_keeps_hosts s).ctx]
  | env e => cases ht; rw [(envStep_keeps_hosts e s).ctx]
  | reset => exact absurd rfl hr
  | outside o => exact outsideStep_keeps_hold ht x

/-! ### Runs on which the host goes on polling -/

/-- On a run without RESET a context stays blocked as long as it is not given the turn. -/
theorem hold_persists {turns : Nat → Turn} {states : Nat → State} {x : Ctx} {h : Hold} {n : Nat} (hrun : IsRun turns states)
    (hh : ((states n).ctx x).hold = some h) {m : Nat} (hm : n ≤ m)
    (hno : ∀ k, n ≤ k → k < m → turns k ≠ .host x ∧ turns k ≠ .reset) : ((states m).ctx x).hold = some h := by
  induction m, hm using Nat.le_induction with
  | base => exact hh
  | succ m hm ih =>
    obtain ⟨hx, hr⟩ := hno m hm (Nat.lt_succ_self m)
    rw [takeTurn_keeps_hold (hrun m) hx hr]
    exact ih fun k hk hkm => hno k hk (Nat.lt_succ_of_lt hkm)

/-- A WAIT whose condition stays true returns: the host goes on polling, so the context is given the turn again, and at its
first turn it is still blocked and its hold is lifted (R373, R374). -/
theorem wait_returns {turns : Nat → Turn} {states : Nat → State} {x : Ctx} {h : Hold} {n : Nat} (hrun : IsRun turns states)
    (hfair : FairHost turns states) (hh : ((states n).ctx x).hold = some h)
    (hlift : ∀ m, n ≤ m → turns m ≠ .reset ∧ ctxRuns x (states m) = true ∧
      (((states m).ctx x).hold = some h → (states m).holdLifted h = true)) :
    ∃ m, n ≤ m ∧ turns m = .host x ∧ ((states m).ctx x).hold = some h ∧ ((states (m + 1)).ctx x).hold = none := by
  have hpoll : ∃ m, n ≤ m ∧ turns m = .host x := by
    by_contra hne
    have hno : ∀ k, n ≤ k → turns k ≠ .host x ∧ turns k ≠ .reset :=
      fun k hk => ⟨fun e => hne ⟨k, hk, e⟩, (hlift k hk).1⟩
    refine hne (hfair x n fun m hm => ?_)
    have hm' := hold_persists hrun hh hm fun k hk _ => hno k hk
    obtain ⟨-, hruns, hl⟩ := hlift m hm
    exact ⟨hruns, h, hm', hl hm'⟩
  classical
  have hfirst := fun k => Nat.find_min hpoll (m := k)
  obtain ⟨hm, hturn⟩ := Nat.find_spec hpoll
  refine ⟨Nat.find hpoll, hm, hturn, ?_⟩
  have hm' := hold_persists hrun hh hm fun k hk hlt => ⟨fun e => hfirst k hlt ⟨hk, e⟩, (hlift k hk).1⟩
  obtain ⟨-, hruns, hl⟩ := hlift _ hm
  obtain ⟨t, ht, hfree⟩ := hostTurn_frees hruns hm' (hl hm')
  have hnext := hrun (Nat.find hpoll)
  rw [hturn, ht] at hnext
  cases hnext
  exact ⟨hm', hfree⟩

end Sys2Proof.Machine

open Sys2Proof Sys2Proof.Machine

/-- Settles O15: the turn of a blocked context by whether its hold is lifted, and `wait_returns` for the runs. -/
theorem blockedWaitsEndWhenTheirConditionHolds : Obligations.BlockedWaitsEndWhenTheirConditionHolds := by
  refine ⟨fun s x c hrun hc => ?_, fun turns states x h n hrun hfair hh hstays => ?_⟩
  · have hr := (ctxRuns_iff x s).2 hrun
    refine ⟨fun hh => ⟨fun hw => ?_, fun hw => ?_⟩, fun hh => ⟨fun hw => ?_, fun hw => ?_⟩, fun hi => ?_⟩
    · exact hostTurn_of_not_lifted hr hh (Bool.eq_false_iff.2 fun hl => (holdLifted_chWait_iff s c).1 hl hw)
    · refine ⟨_, hostTurn_chWait_returns hr hh ((holdLifted_chWait_iff s c).2 hw), ?_⟩
      rw [chWaitStatus_code]
      exact waitReturned_ends hc x _ _ _
    · exact hostTurn_of_not_lifted hr hh (Bool.eq_false_iff.2 fun hl => hw ((holdLifted_mWait_iff s c).1 hl))
    · refine ⟨_, hostTurn_mWait_returns hr hh ((holdLifted_mWait_iff s c).2 hw), ?_⟩
      rw [mWaitStatus_code]
      exact waitReturned_ends hc x _ _ _
    · exact hostTurn_of_not_runs (Bool.eq_false_iff.2 fun hr => hi ((ctxRuns_iff .fg s).1 hr rfl))
  · refine wait_returns hrun hfair hh fun m hm => ?_
    obtain ⟨hreset, hint, hcond⟩ := hstays m hm
    refine ⟨hreset, (ctxRuns_iff x _).2 hint, fun hhold => ?_⟩
    cases h with
    | chWait c => exact (holdLifted_chWait_iff _ c).2 (hcond hhold)
    | mWait c => exact (holdLifted_mWait_iff _ c).2 (hcond hhold)

end

section
/-! PROOFS. What a host operation can do, said once: the state it leaves and its response, one case per way an operation ends, with
the checks it has passed (R141 to R146, R191 to R194, R204, R241 to R249), and what a turn of a host context can do. -/

namespace Sys2Proof.Machine

/-! ### The ways an operation ends -/

/-- M.WRITE_ALL and M.READ_ALL as one operation with a direction (R191, R192). -/
def describeOp : Dir → Nat → Word → Word → ChIdx → Instr
  | .w => .mWriteAll
  | .r => .mReadAll

@[simp] theorem describeOp_chField (dir : Dir) (addr : Nat) (ptr len : Word) (c : ChIdx) :
    (describeOp dir addr ptr len c).chField = c := by cases dir <;> rfl

@[simp] theorem rowBuilt_describeOp (dir : Dir) (addr : Nat) (ptr len : Word) (c : ChIdx) (s : State) :
    rowBuilt (describeOp dir addr ptr len c) s = none := by cases dir <;> rfl

/-- The cases of S.SERVICE that do something, with the state each leaves (R244 to R249). -/
inductive ServiceCase (s : State) : State → Prop
  | addrMatch (hp : s.sl.pend = evAddrMatch) : ServiceCase s (serviceAddrMatch s)
  | rxReady (hp : s.sl.pend = evRxReady) : ServiceCase s (serviceRxReady s)
  | txReady (hp : s.sl.pend = evTxReady) (hv : s.sl.lastValid = true) : ServiceCase s (serviceTxReady s)
  | underrun (hp : s.sl.pend = evTxReady) (hv : s.sl.lastValid = false) : ServiceCase s (serviceUnderrun s)
  | fault (hp : isFaultCode s.sl.pend = true) : ServiceCase s (serviceFault s)

/-- `OpEffect s i w u`: operation `i` issued in `s` answers `w`, and before its OP record the state is `u`; with the checks it has
passed. A row-building operation that has built no row does not answer ST_OK. -/
inductive OpEffect (s : State) : Instr → Word → State → Prop
  | unchanged (i : Instr) (w : Word) (h : rowBuilt i s ≠ none → w ≠ reply i.chField 0 0x00) : OpEffect s i w s
  | enabled (base : Word) (hoff : s.dcm.en = false) (halign : base.toNat % s.par.descAlign = 0)
      (hin : base.toNat + s.tableBytes ≤ 2 ^ 32) (hadm : memAdmit s.par base.toNat s.tableBytes = true) :
      OpEffect s (.dmaEnable base) (reply 0 0 0x00) (s.setDcm ⟨true, base⟩)
  | taken (c : ChIdx) (hen : s.dcm.en = true) (hc : c.toNat < s.nCh) (hfree : (s.ch c).own = .free) :
      OpEffect s (.chTake c) (reply c 0 0x00) (s.setCh c { s.ch c with own := .held })
  | armed (c : ChIdx) (x : Transfer) (hen : s.dcm.en = true) (hc : c.toNat < s.nCh) (hheld : (s.ch c).own = .held)
      (hvalid : validTransfer s.par x false = true) (hadm : rowAdmitted s.par (s.rowAddr c) = true) :
      OpEffect s (.chArm c x) (reply c 0 0x00)
        (noteArm c ((s.writeRow (s.rowAddr c) (rowOf x)).setCh c (armedChan x)))
  | chWaited (c : ChIdx) (hc : c.toNat < s.nCh) (hxfer : (s.ch c).own = .xfer) (hm : s.me.phase = .idle ∨ s.me.ch ≠ c)
      (hl : s.holdLifted (.chWait c) = true) :
      OpEffect s (.chWait c) (reply c 0 (chWaitStatus (s.ch c).err).code.toNat)
        ((s.setHold s.cur none).setCh c (releasedChan (s.ch c)))
  | described (dir : Dir) (addr : Nat) (ptr len : Word) (c : ChIdx) (haddr : addr ≤ 127) (hlen : len ≠ 0)
      (hidle : s.me.phase = .idle) (hc : c.toNat < s.nCh) (hen : s.dcm.en = true) (hheld : (s.ch c).own = .held)
      (hbuf : badMasterBuffer s.par ptr len = false) :
      OpEffect s (describeOp dir addr ptr len c) (reply c 0 0x00)
        ((s.setCh c (describedChan dir ptr len (s.ch c))).setMe (describedMaster dir addr ptr len c s.me))
  | started (hpend : s.me.phase = .pending) (hadm : rowAdmitted s.par (s.rowAddr s.me.ch) = true) :
      OpEffect s .mStart (reply 0 0 0x00)
        ((noteArm s.me.ch ((s.writeRow (s.rowAddr s.me.ch) (rowOf (masterTransfer s.par s.me))).setCh s.me.ch
          (startedChan s.me.len (s.ch s.me.ch)))).setMe { s.me with phase := .start })
  | mWaited (hidle : s.me.phase ≠ .idle) (hpend : s.me.phase ≠ .pending) (hl : s.holdLifted (.mWait s.me.ch) = true) :
      OpEffect s .mWait (reply s.me.ch 0 (mWaitStatus s.me.fault (s.ch s.me.ch).err).code.toNat)
        (((s.setHold s.cur none).setCh s.me.ch (releasedChan (s.ch s.me.ch))).setMe
          { s.me with fault := .none, full := false, phase := .idle })
  | slaveEnabled (addr : Nat) (haddr : addr ≤ 127) (hoff : s.sl.en = false) :
      OpEffect s (.sEnable addr) (reply 0 0 0x00) (s.setSl { s.sl with addr := BitVec.ofNat 7 addr, en := true })
  | serviced (w : Word) (u : State) (hfatal : s.sl.fatal = false) (hen : s.sl.en = true) (h : ServiceCase s u) :
      OpEffect s .sService w u

/-- The WAIT that is left blocked, with the checks it has passed (R146, R204). -/
inductive Blocks (s : State) : Instr → Hold → Prop
  | chWait (c : ChIdx) (hxfer : (s.ch c).own = .xfer) (hm : s.me.phase = .idle ∨ s.me.ch ≠ c) : Blocks s (.chWait c) (.chWait c)
  | mWait (hidle : s.me.phase ≠ .idle) (hpend : s.me.phase ≠ .pending) : Blocks s .mWait (.mWait s.me.ch)

/-- Operation `i` issued in `s` leaves `t`: it has answered, or its context is blocked in it. -/
def OpOutcome (s : State) (i : Instr) (t : State) : Prop :=
  (∃ w u, OpEffect s i w u ∧ t = u.record (opRec i s w)) ∨ ∃ k, Blocks s i k ∧ t = s.setHold s.cur (some k)

/-- Only ST_OK has the code 0x00. -/
theorem Status.code_pos {st : Status} (h : st ≠ .ok) : 0 < st.code.toNat := by
  cases st
  case ok => exact absurd rfl h
  all_goals decide

/-- An error status is not the word of ST_OK. -/
theorem reply_ne_ok (c : ChIdx) {st : Status} (h : st ≠ .ok) : reply c 0 st.code.toNat ≠ reply c 0 0x00 := by
  have h0 := Status.code_pos h
  have h1 := st.code.isLt
  have h2 := c.isLt
  intro e
  have e' := congrArg BitVec.toNat e
  simp only [reply, BitVec.toNat_ofNat] at e'
  omega

section
variable {s t u : State} {i : Instr}

theorem outcome_answer {st : Status} {info : BitVec 8} {c : ChIdx} (h : answer i st info c u = .next t)
    (hcur : u.cur = s.cur) (hu : OpEffect s i (reply c info.toNat st.code.toNat) u) : OpOutcome s i t := by
  refine .inl ⟨_, u, hu, ?_⟩
  rw [answer_next h, opRec, opRec, ← hcur]
  rfl

theorem outcome_finish {st : Status} (h : finish i st u = .next t) (hcur : u.cur = s.cur)
    (hu : OpEffect s i (reply i.chField 0 st.code.toNat) u) : OpOutcome s i t := by
  rw [finish] at h
  exact outcome_answer h hcur (by simpa using hu)

/-- A check that fails answers and does nothing. -/
theorem outcome_error {st : Status} (h : finish i st s = .next t) (hst : st ≠ .ok) : OpOutcome s i t :=
  outcome_finish h rfl (.unchanged i _ fun _ => reply_ne_ok _ hst)

/-- An operation that answers ST_OK. -/
theorem outcome_ok (h : finish i .ok u = .next t) (hcur : u.cur = s.cur) (hu : OpEffect s i (reply i.chField 0 0x00) u) :
    OpOutcome s i t :=
  outcome_finish h hcur (by simpa [Status.code] using hu)

/-- An operation that builds no row and answers at once. -/
theorem outcome_unchanged {st : Status} {info : BitVec 8} {c : ChIdx} (h : answer i st info c s = .next t)
    (hr : rowBuilt i s = none) : OpOutcome s i t :=
  outcome_answer h rfl (.unchanged i _ fun hn => absurd hr hn)

end

/-- `BuildDescriptor` writes the row memory admits, or has no next state (R73, R144). -/
theorem buildDescriptor_some {c : ChIdx} {x : Transfer} {s s1 : State} (h : buildDescriptor c x s = some s1) :
    rowAdmitted s.par (s.rowAddr c) = true ∧ s1 = s.writeRow (s.rowAddr c) (rowOf x) := by
  unfold buildDescriptor at h
  split_ifs at h with hadm
  exact ⟨hadm, (Option.some.inj h).symm⟩

section
variable {s t : State}

theorem execDmaEnable_outcome {base : Word} (h : execDmaEnable base s = .next t) : OpOutcome s (.dmaEnable base) t := by
  obtain ⟨-, h⟩ := withInputs_next h
  split_ifs at h with h1 h2 h3 h4
  · exact outcome_error h nofun
  · exact outcome_error h nofun
  · exact outcome_error h nofun
  · exact outcome_error h nofun
  · exact outcome_ok h rfl (.enabled base (by simpa using h1) (by omega) (by omega) (by simpa using h4))

theorem execChTake_outcome {c : ChIdx} (h : execChTake c s = .next t) : OpOutcome s (.chTake c) t := by
  obtain ⟨-, h⟩ := withInputs_next h
  split_ifs at h with h1 h2 h3
  · exact outcome_error h nofun
  · exact outcome_error h nofun
  · exact outcome_error h nofun
  · exact outcome_ok h rfl (.taken c (by simpa using h1) ((chExists_iff s c).1 (by simpa using h2)) (by simpa using h3))

theorem execChArm_outcome {c : ChIdx} {x : Transfer} (h : execChArm c x s = .next t) : OpOutcome s (.chArm c x) t := by
  obtain ⟨-, h⟩ := withInputs_next h
  split_ifs at h with h1 h2 h3 h4
  · exact outcome_error h nofun
  · exact outcome_error h nofun
  · exact outcome_error h nofun
  · exact outcome_error h nofun
  · cases hb : buildDescriptor c x s with
    | none => simp [hb] at h
    | some s1 =>
      obtain ⟨hadm, rfl⟩ := buildDescriptor_some hb
      rw [hb] at h
      exact outcome_ok h (by simp) (.armed c x (by simpa using h1) ((chExists_iff s c).1 (by simpa using h2)) (by simpa using h3)
        (by simpa using h4) hadm)

theorem execChWait_outcome {c : ChIdx} (h : execChWait c s = .next t) : OpOutcome s (.chWait c) t := by
  obtain ⟨-, h⟩ := withInputs_next h
  split_ifs at h with h1 h2 h3 h4
  · exact outcome_error h nofun
  · exact outcome_error h nofun
  · exact outcome_error h nofun
  · exact outcome_error h nofun
  · have hc := (chExists_iff s c).1 (by simpa using h2)
    have hx : (s.ch c).own = .xfer := by simpa using h3
    have hm : s.me.phase = .idle ∨ s.me.ch ≠ c := by
      simpa [imp_iff_not_or] using h4
    obtain ⟨hl, e⟩ | ⟨-, e⟩ := holdOrFinish_cases (.chWait c) s
    · have hch : (s.setHold s.cur none).ch c = s.ch c := ch_congr (by simp) c
      rw [e, finishWait_chWait, hch] at h
      cases h
      exact .inl ⟨_, _, .chWaited c hc hx hm hl, by rw [opRec, setHold_cur]⟩
    · rw [e] at h
      cases h
      exact .inr ⟨_, .chWait c hx hm, rfl⟩

theorem describe_outcome {dir : Dir} {addr : Nat} {ptr len : Word} {c : ChIdx}
    (h : describe (describeOp dir addr ptr len c) dir addr ptr len c s = .next t) :
    OpOutcome s (describeOp dir addr ptr len c) t := by
  obtain ⟨-, h⟩ := withInputs_next h
  split_ifs at h with h1 h2 h3 h4 h5 h6 h7
  · exact outcome_error h nofun
  · exact outcome_unchanged h (rowBuilt_describeOp ..)
  · exact outcome_error h nofun
  · exact outcome_error h nofun
  · exact outcome_error h nofun
  · exact outcome_error h nofun
  · exact outcome_error h nofun
  · have hu := OpEffect.described (s := s) dir addr ptr len c (by omega) h2 (by simpa using h3)
      ((chExists_iff s c).1 (by simpa using h4)) (by simpa using h5) (by simpa using h6) (by simpa using h7)
    exact outcome_ok h rfl (by simpa using hu)

theorem execMStart_outcome (h : execMStart s = .next t) : OpOutcome s .mStart t := by
  obtain ⟨-, h⟩ := withInputs_next h
  split_ifs at h with h1
  · exact outcome_error h nofun
  · cases hb : buildDescriptor s.me.ch (masterTransfer s.par s.me) s with
    | none => simp [hb] at h
    | some s1 =>
      obtain ⟨hadm, rfl⟩ := buildDescriptor_some hb
      rw [hb] at h
      exact outcome_ok h (by simp) (.started (by simpa using h1) hadm)

theorem execMWait_outcome (h : execMWait s = .next t) : OpOutcome s .mWait t := by
  obtain ⟨-, h⟩ := withInputs_next h
  split_ifs at h with h1
  · exact outcome_error h nofun
  · obtain ⟨hidle, hpend⟩ : s.me.phase ≠ .idle ∧ s.me.phase ≠ .pending := by simpa using h1
    obtain ⟨hl, e⟩ | ⟨-, e⟩ := holdOrFinish_cases (.mWait s.me.ch) s
    · have hch : (s.setHold s.cur none).ch s.me.ch = s.ch s.me.ch := ch_congr (by simp) _
      rw [e, finishWait_mWait, hch, setHold_me] at h
      cases h
      exact .inl ⟨_, _, .mWaited hidle hpend hl, by rw [opRec, setHold_cur]⟩
    · rw [e] at h
      cases h
      exact .inr ⟨_, .mWait hidle hpend, rfl⟩

theorem execSEnable_outcome {addr : Nat} (h : execSEnable addr s = .next t) : OpOutcome s (.sEnable addr) t := by
  obtain ⟨-, h⟩ := withInputs_next h
  split_ifs at h with h1 h2
  · exact outcome_error h nofun
  · exact outcome_error h nofun
  · exact outcome_ok h rfl (.slaveEnabled addr (by omega) (by simpa using h2))

theorem serviceUnderrun_cur (s : State) : (serviceUnderrun s).cur = s.cur := by
  unfold serviceUnderrun
  split <;> simp

theorem execSService_outcome (h : execSService s = .next t) : OpOutcome s .sService t := by
  obtain ⟨-, h⟩ := withInputs_next h
  split_ifs at h with h1 h2 h3 h4 h5 h6 h7
  · exact outcome_unchanged h rfl
  · exact outcome_unchanged h rfl
  · exact outcome_unchanged h rfl
  all_goals have hs := fun u w => OpEffect.serviced (s := s) w u (by simpa using h1) (by simpa using h2)
  · exact outcome_answer h (by simp [serviceAddrMatch]) (hs _ _ (.addrMatch h4))
  · exact outcome_answer h (by simp [serviceRxReady]) (hs _ _ (.rxReady h5))
  · exact outcome_answer h (by simp [serviceTxReady]) (hs _ _ (.txReady h6 h7))
  · exact outcome_answer h (serviceUnderrun_cur s) (hs _ _ (.underrun h6 (by simpa using h7)))
  · refine outcome_answer h rfl (hs _ _ (.fault (by_contra fun hn => ?_)))
    rcases normal_code (Bool.eq_false_iff.2 hn) with e | e | e | e
    · exact h3 e
    · exact h4 e
    · exact h5 e
    · exact h6 e

/-- What a host operation with a next state has done. -/
theorem exec_outcome {i : Instr} (h : exec i s = .next t) : OpOutcome s i t := by
  cases i with
  | dmaEnable base => exact execDmaEnable_outcome h
  | chTake c => exact execChTake_outcome h
  | chArm c x => exact execChArm_outcome h
  | chWait c => exact execChWait_outcome h
  | mWriteAll addr ptr len c => exact describe_outcome (dir := .w) h
  | mReadAll addr ptr len c => exact describe_outcome (dir := .r) h
  | mStart => exact execMStart_outcome h
  | mWait => exact execMWait_outcome h
  | sEnable addr => exact execSEnable_outcome h
  | sService => exact execSService_outcome h

end

/-! ### The turns of the host and of the outside parties -/

/-- What a turn of context `x` can do: nothing, look at its hold in vain, end a WAIT, have an illegal packet answered, or take its
next packet and execute the operation (R20, R100, R331). -/
inductive HostMove (x : Ctx) (s : State) : State → Prop
  | passes : HostMove x s s
  | staysBlocked (k : Hold) (hk : (s.ctx x).hold = some k) : HostMove x s (s.setCur x)
  | chWaitEnds (c : ChIdx) (hk : (s.ctx x).hold = some (.chWait c)) (hl : s.holdLifted (.chWait c) = true) :
      HostMove x s (s.waitReturned x (.chWait c) c s.me (chWaitStatus (s.ch c).err).code.toNat)
  | mWaitEnds (c : ChIdx) (hk : (s.ctx x).hold = some (.mWait c)) (hl : s.holdLifted (.mWait c) = true) :
      HostMove x s (s.waitReturned x .mWait c { s.me with fault := .none, full := false, phase := .idle }
        (mWaitStatus s.me.fault (s.ch c).err).code.toNat)
  | rejects (p : Packet) (rest : List Packet) (w : Word) (hp : s.ctx x = ⟨p :: rest, none⟩) :
      HostMove x s (((s.setCtx x ⟨rest, none⟩).setCur x).record (.op x (.illegal p) w))
  | executes (p : Packet) (rest : List Packet) (i : Instr) (t : State) (hp : s.ctx x = ⟨p :: rest, none⟩)
      (hd : decode p = some i) (he : exec i ((s.setCtx x ⟨rest, none⟩).setCur x) = .next t) : HostMove x s t

/-- A context that may run and is not blocked issues its next packet. -/
theorem hostTurn_of_ready {x : Ctx} {s : State} {p : Packet} {rest : List Packet} (hr : ctxRuns x s = true)
    (hp : s.ctx x = ⟨p :: rest, none⟩) : takeTurn (.host x) s = issue p ((s.setCtx x ⟨rest, none⟩).setCur x) := by
  simp [takeTurn, hostTurn, hr, hp]

theorem hostTurn_of_nothing_to_issue {x : Ctx} {s : State} (hp : s.ctx x = ⟨[], none⟩) :
    takeTurn (.host x) s = .next s := by
  simp [takeTurn, hostTurn, hp]

theorem hostTurn_move {x : Ctx} {s t : State} (h : takeTurn (.host x) s = .next t) : HostMove x s t := by
  cases hr : ctxRuns x s with
  | false =>
    rw [hostTurn_of_not_runs hr] at h
    cases h
    exact .passes
  | true =>
    match hk : (s.ctx x).hold, hp : (s.ctx x).prog with
    | some k, _ =>
      cases hl : s.holdLifted k with
      | false =>
        rw [hostTurn_of_not_lifted hr hk hl] at h
        cases h
        exact .staysBlocked k hk
      | true =>
        cases k with
        | chWait c =>
          rw [hostTurn_chWait_returns hr hk hl] at h
          cases h
          exact .chWaitEnds c hk hl
        | mWait c =>
          rw [hostTurn_mWait_returns hr hk hl] at h
          cases h
          exact .mWaitEnds c hk hl
    | none, [] =>
      rw [hostTurn_of_nothing_to_issue (by rw [← hk, ← hp])] at h
      cases h
      exact .passes
    | none, p :: rest =>
      have hctx : s.ctx x = ⟨p :: rest, none⟩ := by rw [← hk, ← hp]
      rw [hostTurn_of_ready hr hctx, issue] at h
      cases hd : decode p with
      | none =>
        rw [hd] at h
        cases h
        exact .rejects p rest _ hctx
      | some i =>
        rw [hd] at h
        exact .executes p rest i t hctx hd h

/-- What a move of an outside party can do. A store is inside admitted memory, and a store into the table is noted (R34, R72,
R366). -/
inductive OutsideMove (s : State) : OutsideStep → State → Prop
  | inputs (o : OutsideStep) (n : Inputs) : OutsideMove s o (s.setInp n)
  | load (a : Word) (w : AccWidth) (al : Bool) : OutsideMove s (.load a w) (s.noteHaz false al)
  | store (a : Word) (w : AccWidth) (v : Word) (al : Bool) (hadm : memAdmit s.par a.toNat w.bytes = true) :
      OutsideMove s (.store a w v) ((s.noteHaz (s.hitsTable a.toNat w.bytes) al).memWrite a.toNat w.bytes v)
  | append (c : Ctx) (p : Packet) : OutsideMove s (.append c p) (s.appendPacket c p)

theorem outsideStep_move {o : OutsideStep} {s t : State} (h : outsideStep o s = .next t) : OutsideMove s o t := by
  cases o with
  | clkDma on => cases h; exact .inputs _ _
  | clkI2c on => cases h; exact .inputs _ _
  | pins ok => cases h; exact .inputs _ _
  | load a w =>
    simp only [outsideStep, hostAccess] at h
    split_ifs at h
    cases h
    exact .load a w _
  | store a w v =>
    simp only [outsideStep, hostAccess] at h
    split_ifs at h with h1 h2
    cases h
    exact .store a w v _ (by simpa using h2)
  | append c p => cases h; exact .append c p

end Sys2Proof.Machine
end

section
/-! PROOFS. What a turn of an agent can do, said once: one case per step that is taken, with the line that enables it (R148, R195 to
R203, R208, R256, R288 to R295). -/

namespace Sys2Proof.Machine

/-- What a turn of SEQ[c] can do (R148). -/
inductive SeqMove (c : ChIdx) (s : State) : State → Prop
  | waits : SeqMove c s s
  | aborts (hmay : SeqMayMove s c) : SeqMove c s (abort c s)
  | moves (hmay : SeqMayMove s c) (hrow : rowAborts s c (s.readRow (s.rowAddr c)) = false) :
      SeqMove c s (moveElement c (s.readRow (s.rowAddr c)) s)

theorem seqStep_move (c : ChIdx) (s : State) : SeqMove c s (seqStep c s) := by
  unfold seqStep
  split_ifs with h1 h2 h3
  · exact .waits
  · exact .aborts ((seqEnabled_iff s c).1 (by simpa using h1))
  · exact .aborts ((seqEnabled_iff s c).1 (by simpa using h1))
  · exact .moves ((seqEnabled_iff s c).1 (by simpa using h1)) (by simpa using h3)

/-- The master registers when a byte has left the data register for the bus or for memory (R78, R198). -/
def byteTaken (m : Master) : Master := { m with full := false, k := m.k + 1 }

/-- What a turn of the MFU can do; a lost arbitration hands the bus to the external master (R195, R197 to R203, R207). -/
inductive MfuMove (s : State) : MfuStep → State → Prop
  | waits (m : MfuStep) : MfuMove s m s
  | startWon (arb : Arb) (present : Bool) (hme : s.me.phase = .start) (hbus : s.bus.phase = .idle) :
      MfuMove s (.start arb present)
        ((driveAddress .own (addressByte s.me.addr s.me.dir) present s).setMe { s.me with phase := .addr })
  | startLost (arb : Arb) (present : Bool) (b : Byte) (hme : s.me.phase = .start) (hbus : s.bus.phase = .idle) :
      MfuMove s (.start arb present) (masterFault .arbLost (driveAddress .ext b present s))
  | wdriveWon (arb : Arb) (hme : s.me.phase = .data) (hdir : s.me.dir = .w) (hinit : s.bus.init = .own)
      (hbus : s.bus.phase = .wIdle) (hfull : s.me.full = true) :
      MfuMove s (.wdrive arb) (driveData .own s.me.dat (s.setMe (byteTaken s.me)))
  | wdriveLost (arb : Arb) (b : Byte) (hme : s.me.phase = .data) (hdir : s.me.dir = .w) (hinit : s.bus.init = .own)
      (hbus : s.bus.phase = .wIdle) (hfull : s.me.full = true) :
      MfuMove s (.wdrive arb)
        (masterFault .arbLost (driveData .ext b (s.setMe (byteTaken s.me))))
  | wdone (hme : s.me.phase = .data) (hdir : s.me.dir = .w) (hinit : s.bus.init = .own) (hbus : s.bus.phase = .wIdle)
      (hk : s.me.k = s.me.len) : MfuMove s .wdone (masterDone (busStop .ownMaster s))
  | rrespondAck (hme : s.me.phase = .data) (hdir : s.me.dir = .r) (hinit : s.bus.init = .own)
      (hbus : s.bus.phase = .rAckwait) : MfuMove s .rrespond (readAck .ownMaster s)
  | rrespondLast (hme : s.me.phase = .data) (hdir : s.me.dir = .r) (hinit : s.bus.init = .own)
      (hbus : s.bus.phase = .rAckwait) (hk : s.me.len.toNat ≤ s.me.k.toNat) :
      MfuMove s .rrespond (masterDone (busStop .ownMaster (s.record (.sym .nack .ownMaster))))
  | nack (hme : s.me.phase = .addr ∨ s.me.phase = .data) (hinit : s.bus.init = .own) (hbus : s.bus.phase = .ended) :
      MfuMove s .nack (mfuNack s)
  | dabort (l : List Rec) (hme : s.me.phase = .data) (hinit : s.bus.init = .own) (herr : (s.ch s.me.ch).err = .dmaAbort)
      (hbus : s.bus.phase = .wIdle ∨ s.bus.phase = .rAckwait) :
      MfuMove s .dabort (masterDone (busStop .ownMaster { s with trace := s.trace ++ l }))

theorem mfuStart_move {s : State} (arb : Arb) (present : Bool) (hme : s.me.phase = .start) (hbus : s.bus.phase = .idle) :
    MfuMove s (.start arb present) (mfuStart arb present s) := by
  simp only [mfuStart]
  split
  · simpa using MfuMove.startWon arb present hme hbus
  · exact .startLost arb present _ hme hbus

theorem mfuWdrive_move {s : State} (arb : Arb) (hme : s.me.phase = .data) (hdir : s.me.dir = .w) (hinit : s.bus.init = .own)
    (hbus : s.bus.phase = .wIdle) (hfull : s.me.full = true) : MfuMove s (.wdrive arb) (mfuWdrive arb s) := by
  simp only [mfuWdrive]
  split
  · exact .wdriveWon arb hme hdir hinit hbus hfull
  · exact .wdriveLost arb _ hme hdir hinit hbus hfull

theorem mfuRrespond_move {s : State} (hme : s.me.phase = .data) (hdir : s.me.dir = .r) (hinit : s.bus.init = .own)
    (hbus : s.bus.phase = .rAckwait) : MfuMove s .rrespond (mfuRrespond s) := by
  unfold mfuRrespond
  split_ifs with hk
  · exact .rrespondAck hme hdir hinit hbus
  · exact .rrespondLast hme hdir hinit hbus (by omega)

theorem mfuDabort_move {s : State} (hme : s.me.phase = .data) (hinit : s.bus.init = .own)
    (herr : (s.ch s.me.ch).err = .dmaAbort) (hbus : s.bus.phase = .wIdle ∨ s.bus.phase = .rAckwait) :
    MfuMove s .dabort (mfuDabort s) := by
  unfold mfuDabort
  cases s.me.dir with
  | w => simpa using MfuMove.dabort [] hme hinit herr hbus
  | r => exact .dabort [.sym .nack .ownMaster] hme hinit herr hbus

theorem mfuStep_move (m : MfuStep) (s : State) : MfuMove s m (mfuStep m s) := by
  unfold mfuStep
  split_ifs with he
  · exact .waits m
  · simp only [Bool.not_eq_true', Bool.not_eq_false] at he
    cases m with
    | start arb present =>
      simp only [mfuEnabled, Bool.and_eq_true, decide_eq_true_eq] at he
      obtain ⟨-, hme, hbus⟩ := he
      exact mfuStart_move arb present hme hbus
    | wdrive arb =>
      simp only [mfuEnabled, Bool.and_eq_true, decide_eq_true_eq] at he
      obtain ⟨-, ⟨⟨⟨hme, hdir⟩, hinit⟩, hbus⟩, hfull⟩ := he
      exact mfuWdrive_move arb hme hdir hinit hbus hfull
    | wdone =>
      simp only [mfuEnabled, Bool.and_eq_true, decide_eq_true_eq] at he
      obtain ⟨-, ⟨⟨⟨⟨hme, hdir⟩, hinit⟩, hbus⟩, hk⟩, -⟩ := he
      exact .wdone hme hdir hinit hbus hk
    | rrespond =>
      simp only [mfuEnabled, Bool.and_eq_true, decide_eq_true_eq] at he
      obtain ⟨-, ⟨⟨⟨⟨hme, hdir⟩, hinit⟩, hbus⟩, -⟩, -⟩ := he
      exact mfuRrespond_move hme hdir hinit hbus
    | nack =>
      simp only [mfuEnabled, Bool.and_eq_true, Bool.or_eq_true, decide_eq_true_eq] at he
      obtain ⟨-, ⟨hme, hinit⟩, hbus⟩ := he
      exact .nack hme hinit hbus
    | dabort =>
      simp only [mfuEnabled, Bool.and_eq_true, Bool.or_eq_true, decide_eq_true_eq] at he
      obtain ⟨-, ⟨⟨hme, hinit⟩, herr⟩, hbus⟩ := he
      exact mfuDabort_move hme hinit herr (hbus.imp And.right And.right)

/-- What a turn of BUS can do (R288). -/
inductive BusMove (s : State) : State → Prop
  | waits : BusMove s s
  | nobody (hbus : s.bus.phase = .addr) (htgt : s.bus.tgt = .none) : BusMove s (afterAddrNack .nobody s)

theorem busStep_move (s : State) : BusMove s (busStep s) := by
  unfold busStep
  split_ifs with he
  · simp only [busEnabled, Bool.and_eq_true, decide_eq_true_eq] at he
    exact .nobody he.1 he.2
  · exact .waits

/-- What a turn of ENV can do (R208, R256, R289 to R295). -/
inductive EnvMove (s : State) : EnvStep → State → Prop
  | waits (e : EnvStep) : EnvMove s e s
  | addrAck (hbus : s.bus.phase = .addr) (htgt : s.bus.tgt = .extSlv) :
      EnvMove s (.xsAddr true) (afterAddrAck (s.record (.sym .ack .extSlave)))
  | addrNack (hbus : s.bus.phase = .addr) (htgt : s.bus.tgt = .extSlv) :
      EnvMove s (.xsAddr false) (afterAddrNack .extSlave s)
  | wdata (ack : Bool) (hbus : s.bus.phase = .wAckwait) (htgt : s.bus.tgt = .extSlv) :
      EnvMove s (.xsWdata ack) (envXsWdata ack s)
  | rdata (b : Byte) (hbus : s.bus.phase = .rDatawait) (htgt : s.bus.tgt = .extSlv) :
      EnvMove s (.xsRdata b) (supplyData .extSlave b s)
  | masterStart (a7 : BusAddr) (rw : Dir) (present : Bool) (hbus : s.bus.phase = .idle) :
      EnvMove s (.xmStart a7 rw present) (driveAddress .ext (addressByte a7 rw) present s)
  | masterData (b : Byte) (hinit : s.bus.init = .ext) (hbus : s.bus.phase = .wIdle) :
      EnvMove s (.xmWdata b) (driveData .ext b s)
  | masterAck (hinit : s.bus.init = .ext) (hbus : s.bus.phase = .rAckwait) :
      EnvMove s (.xmRresp true) (readAck .extMaster s)
  | masterNack (hinit : s.bus.init = .ext) (hbus : s.bus.phase = .rAckwait) :
      EnvMove s (.xmRresp false) ((s.record (.sym .nack .extMaster)).setBus { s.bus with phase := .ended })
  | masterStop (hinit : s.bus.init = .ext) (hbus : s.bus.phase = .wIdle ∨ s.bus.phase = .ended) :
      EnvMove s .xmStop (busStop .extMaster s)
  | masterRestart (a7 : BusAddr) (rw : Dir) (present : Bool) (hinit : s.bus.init = .ext)
      (hbus : s.bus.phase = .wIdle ∨ s.bus.phase = .ended) :
      EnvMove s (.xmRestart a7 rw present) (envXmRestart a7 rw present s)
  | timeout (hme : s.me.phase = .start ∨ s.me.phase = .addr ∨ s.me.phase = .data) : EnvMove s .timeout (envTimeout s)
  | slaveFault (code : EvCode) (hcode : isFaultCode code = true) (hfatal : s.sl.fatal = false) :
      EnvMove s (.slvFault code) (envSlvFault code s)

theorem envStep_move (e : EnvStep) (s : State) : EnvMove s e (envStep e s) := by
  unfold envStep
  split_ifs with he
  · exact .waits e
  · simp only [Bool.not_eq_true', Bool.not_eq_false] at he
    cases e with
    | xsAddr ack =>
      simp only [envEnabled, Bool.and_eq_true, decide_eq_true_eq] at he
      cases ack with
      | true => exact .addrAck he.1 he.2
      | false => exact .addrNack he.1 he.2
    | xsWdata ack =>
      simp only [envEnabled, Bool.and_eq_true, decide_eq_true_eq] at he
      exact .wdata ack he.1 he.2
    | xsRdata b =>
      simp only [envEnabled, Bool.and_eq_true, decide_eq_true_eq] at he
      exact .rdata b he.1 he.2
    | xmStart a7 rw present => exact .masterStart a7 rw present (by simpa [envEnabled] using he)
    | xmWdata b =>
      simp only [envEnabled, Bool.and_eq_true, decide_eq_true_eq] at he
      exact .masterData b he.1 he.2
    | xmRresp ack =>
      simp only [envEnabled, Bool.and_eq_true, decide_eq_true_eq] at he
      cases ack with
      | true => exact .masterAck he.1 he.2
      | false => exact .masterNack he.1 he.2
    | xmStop =>
      simp only [envEnabled, Bool.and_eq_true, Bool.or_eq_true, decide_eq_true_eq] at he
      exact .masterStop he.1 he.2
    | xmRestart a7 rw present =>
      simp only [envEnabled, Bool.and_eq_true, Bool.or_eq_true, decide_eq_true_eq] at he
      exact .masterRestart a7 rw present he.1 he.2
    | timeout =>
      simp only [envEnabled, Bool.and_eq_true, Bool.or_eq_true, decide_eq_true_eq] at he
      exact .timeout (or_assoc.1 he.2)
    | slvFault code =>
      simp only [envEnabled, Bool.and_eq_true, Bool.not_eq_true'] at he
      obtain ⟨⟨⟨⟨-, hcode⟩, -⟩, hfatal⟩, -⟩ := he
      exact .slaveFault code hcode hfatal

/-- A step is nothing, or the turn at the head of the schedule. -/
theorem step_cases {s t : State} (hs : step s = .next t) :
    t = s ∨ ∃ turn rest, s.sched = turn :: rest ∧ takeTurn turn (s.setSched rest) = .next t := by
  unfold step at hs
  split at hs
  · exact .inl (by cases hs; rfl)
  · exact .inr ⟨_, _, ‹_›, hs⟩

end Sys2Proof.Machine
end

section
/-! PROOFS. The invariant of the slave and the bus (R42 items 4 to 7, R31): each bus procedure keeps it when no event of the
hardware layer is pending, and the step that runs a procedure is enabled only in such a state. -/

namespace Sys2Proof.Machine

/-- No event of the hardware layer waits for S.SERVICE (R29). -/
def NoEvent (s : State) : Prop := s.sl.pend ≠ evAddrMatch ∧ s.sl.pend ≠ evRxReady ∧ s.sl.pend ≠ evTxReady

/-- The phases in which the own slave may owe an answer, and B_HUNG, in which it owes one for ever (R281, R299). -/
def BusPhase.mayOwe : BusPhase → Bool
  | .addr | .wAckwait | .rDatawait | .hung => true
  | .idle | .wIdle | .rAckwait | .ended => false

section
variable {s t u : State}

/-- The invariant speaks of the slave and the bus only. -/
theorem SlaveBusOk.of_eq (h : SlaveBusOk u) (hsl : t.sl = u.sl) (hbus : t.bus = u.bus) : SlaveBusOk t := by
  obtain ⟨h1, h2, h3, h4, h5, h6, h7, h8, h9⟩ := h
  constructor <;> simp only [hsl, hbus] <;> assumption

theorem SlaveBusOk.noEvent_of_phase (h : SlaveBusOk s) (hp : s.bus.phase.mayOwe = false) : NoEvent s := by
  refine ⟨fun e => ?_, fun e => ?_, fun e => ?_⟩
  · rcases h.pendAddr e with e' | e' <;> rw [e'] at hp <;> cases hp
  · rcases h.pendRx e with e' | e' <;> rw [e'] at hp <;> cases hp
  · rcases h.pendTx e with e' | e' <;> rw [e'] at hp <;> cases hp

theorem SlaveBusOk.noEvent_of_target (h : SlaveBusOk s) (ht : s.bus.tgt ≠ .ownSlv) : NoEvent s :=
  ⟨fun e => ht (h.pendTarget (.inl e)).2, fun e => ht (h.pendTarget (.inr (.inl e))).2,
    fun e => ht (h.pendTarget (.inr (.inr e))).2⟩

/-! ### The moves the procedures are made of -/

/-- With no event pending the bus may go to any phase but B_IDLE of the same transaction. -/
theorem SlaveBusOk.moveBus (h : SlaveBusOk s) (hn : NoEvent s) {b : Bus} (htgt : b.tgt = s.bus.tgt) (hrw : b.rw = s.bus.rw)
    (hidle : b.phase ≠ .idle) : SlaveBusOk (s.setBus b) where
  targetEnabled e := h.targetEnabled (htgt ▸ e)
  pendTarget e := absurd e (by simpa [NoEvent] using hn)
  pendAddr e := absurd e hn.1
  pendRx e := absurd e hn.2.1
  pendTx e := absurd e hn.2.2
  faultFatal := h.faultFatal
  receivedValid := h.receivedValid
  idleFree e := absurd e hidle
  selTarget := by simpa [htgt, hrw] using h.selTarget

/-- An event is latched for a targeted slave in the phase that waits for its answer (R282). -/
theorem SlaveBusOk.latch (h : SlaveBusOk s) (ht : s.bus.tgt = .ownSlv) {ev : EvCode}
    (ha : ev = evAddrMatch → s.bus.phase = .addr) (hr : ev = evRxReady → s.bus.phase = .wAckwait)
    (hx : ev = evTxReady → s.bus.phase = .rDatawait) : SlaveBusOk (slaveLatch ev s) := by
  by_cases hl : s.sl.fatal = false ∧ isFaultCode s.sl.pend = false
  · have hsl : (slaveLatch ev s).sl = { s.sl with pend := ev } := by rw [slaveLatch_sl, if_pos hl]
    refine SlaveBusOk.of_eq (u := s.setSl { s.sl with pend := ev }) ?_ hsl (slaveLatch_bus s ev)
    exact { h with
      pendTarget := fun _ => ⟨h.targetEnabled ht, ht⟩
      pendAddr := fun e => .inl (ha e)
      pendRx := fun e => .inl (hr e)
      pendTx := fun e => .inl (hx e) }
  · exact h.of_eq (by rw [slaveLatch_sl, if_neg hl]) (slaveLatch_bus s ev)

/-- S.SERVICE clears the event and moves the session, out of Fault (R244 to R247). -/
theorem SlaveBusOk.clear (h : SlaveBusOk s) (hf : s.sl.fatal = false) {x : Slave} (hen : x.en = s.sl.en) (hsel : x.sel = s.sl.sel)
    (hfatal : x.fatal = s.sl.fatal) (hpend : x.pend = evNone) (hfault : x.state ≠ .fault)
    (hvalid : x.state = .receivingByte → x.lastValid = true) : SlaveBusOk (s.setSl x) ∧ NoEvent (s.setSl x) := by
  have hn : NoEvent (s.setSl x) := by
    simp only [NoEvent, setSl_sl, hpend]
    decide
  exact ⟨{
    targetEnabled := fun e => hen ▸ h.targetEnabled e
    pendTarget := fun e => absurd e (by simpa [NoEvent] using hn)
    pendAddr := fun e => absurd e hn.1
    pendRx := fun e => absurd e hn.2.1
    pendTx := fun e => absurd e hn.2.2
    faultFatal := by simp [hfault, hfatal, hf]
    receivedValid := hvalid
    idleFree := fun e => ⟨(h.idleFree e).1, hsel ▸ (h.idleFree e).2⟩
    selTarget := by simpa [hsel] using h.selTarget }, hn⟩

/-- A selection goes with a target: the own slave in the direction of the transaction, or nobody of the engine (R31, R283). -/
theorem SlaveBusOk.select (h : SlaveBusOk s) (hn : NoEvent s) {b : Bus} {x : Sel} (hp : b.phase ≠ .idle)
    (hsel : (b.tgt = .ownSlv ∧ s.sl.en = true ∧ x = selOf b.rw) ∨ (b.tgt ≠ .ownSlv ∧ x = .nsel)) :
    SlaveBusOk ((s.setBus b).setSl { s.sl with sel := x }) where
  targetEnabled e := by
    rcases hsel with ⟨-, hen, -⟩ | ⟨ht, -⟩
    · exact hen
    · exact absurd e ht
  pendTarget e := absurd e (by simpa [NoEvent] using hn)
  pendAddr e := absurd e hn.1
  pendRx e := absurd e hn.2.1
  pendTx e := absurd e hn.2.2
  faultFatal := h.faultFatal
  receivedValid := h.receivedValid
  idleFree e := absurd e hp
  selTarget := by
    rcases hsel with ⟨ht, -, rfl⟩ | ⟨ht, rfl⟩
    · cases hrw : b.rw <;> simp [ht, hrw, selOf]
    · simp [ht]

/-! ### The bus procedures -/

theorem driveAddress_slaveBusOk (h : SlaveBusOk s) (hn : NoEvent s) (i : Initiator) (ab : Byte) (pr : Bool) :
    SlaveBusOk (driveAddress i ab pr s) := by
  by_cases ho : ownAddressed s ab
  · have hsel := h.select hn (b := ⟨.addr, i, .ownSlv, directionOf ab, ab⟩) (x := selOf (directionOf ab)) nofun
      (.inl ⟨rfl, ho.1, rfl⟩)
    refine (hsel.latch (ev := evAddrMatch) rfl (fun _ => rfl) nofun nofun).of_eq ?_ ?_
    · rw [driveAddress_sl_own s i ab pr ho, slaveLatch_sl]
      rfl
    · rw [driveAddress_bus_own s i ab pr ho, slaveLatch_bus]
      rfl
  · refine (h.select hn (b := ⟨.addr, i, if pr = true then .extSlv else .none, directionOf ab, ab⟩) (x := .nsel) nofun
      (.inr ⟨by cases pr <;> nofun, rfl⟩)).of_eq ?_ ?_
    · rw [driveAddress_sl_ext s i ab pr ho]
      rfl
    · rw [driveAddress_bus_ext s i ab pr ho]
      rfl

theorem afterAddrNack_slaveBusOk (h : SlaveBusOk s) (hn : NoEvent s) (d : Driver) : SlaveBusOk (afterAddrNack d s) :=
  (h.moveBus hn (b := { s.bus with phase := .ended }) rfl rfl nofun).of_eq rfl rfl

theorem busStop_slaveBusOk (h : SlaveBusOk s) (hn : NoEvent s) (d : Driver) : SlaveBusOk (busStop d s) where
  targetEnabled := nofun
  pendTarget e := absurd e (by simpa [NoEvent] using hn)
  pendAddr e := absurd e hn.1
  pendRx e := absurd e hn.2.1
  pendTx e := absurd e hn.2.2
  faultFatal := h.faultFatal
  receivedValid := h.receivedValid
  idleFree _ := ⟨rfl, rfl⟩
  selTarget := by simp

theorem slaveAckData_slaveBusOk (h : SlaveBusOk s) (hn : NoEvent s) : SlaveBusOk (slaveAckData s) := by
  unfold slaveAckData
  split
  · exact h.moveBus hn rfl rfl nofun
  · exact h

theorem supplyData_slaveBusOk (h : SlaveBusOk s) (hn : NoEvent s) (d : Driver) (b : Byte) : SlaveBusOk (supplyData d b s) := by
  by_cases hp : s.bus.phase = .rDatawait
  · refine (h.moveBus hn (b := { s.bus with byte := b, phase := .rAckwait }) rfl rfl nofun).of_eq (supplyData_sl s d b) ?_
    rw [supplyData_bus, if_pos hp]
    rfl
  · exact h.of_eq (supplyData_sl s d b) (by rw [supplyData_bus, if_neg hp])

theorem readAck_slaveBusOk (h : SlaveBusOk s) (hn : NoEvent s) (d : Driver) : SlaveBusOk (readAck d s) := by
  have hm := h.moveBus hn (b := { s.bus with phase := .rDatawait }) rfl rfl nofun
  by_cases ht : s.bus.tgt = .ownSlv
  · refine (hm.latch (ev := evTxReady) ht nofun nofun fun _ => rfl).of_eq ?_ ?_
    · rw [readAck_sl, if_pos ht, slaveLatch_sl, slaveLatch_sl, setBus_sl]
    · rw [readAck_bus, slaveLatch_bus, setBus_bus]
  · exact hm.of_eq (by rw [readAck_sl, if_neg ht, setBus_sl]) (readAck_bus s d)

theorem afterAddrAck_slaveBusOk (h : SlaveBusOk s) (hn : NoEvent s) : SlaveBusOk (afterAddrAck s) := by
  by_cases hp : s.bus.phase = .addr
  · cases hrw : s.bus.rw with
    | w =>
      refine (h.moveBus hn (b := { s.bus with phase := .wIdle }) rfl rfl nofun).of_eq ?_ ?_
      · simp [afterAddrAck_sl, hrw]
      · simp [afterAddrAck_bus, hp, hrw]
    | r =>
      have hm := h.moveBus hn (b := { s.bus with phase := .rDatawait }) rfl rfl nofun
      have hbus : (afterAddrAck s).bus = { s.bus with phase := .rDatawait } := by simp [afterAddrAck_bus, hp, hrw]
      by_cases ht : s.bus.tgt = .ownSlv
      · refine (hm.latch (ev := evTxReady) ht nofun nofun fun _ => rfl).of_eq ?_ ?_
        · rw [afterAddrAck_sl, if_pos ⟨hp, hrw, ht⟩, slaveLatch_sl, slaveLatch_sl, setBus_sl]
        · rw [hbus, slaveLatch_bus, setBus_bus]
      · exact hm.of_eq (by simp [afterAddrAck_sl, ht]) hbus
  · exact h.of_eq (by simp [afterAddrAck_sl, hp]) (by simp [afterAddrAck_bus, hp])

theorem driveData_slaveBusOk (h : SlaveBusOk s) (hn : NoEvent s) (i : Initiator) (b : Byte) : SlaveBusOk (driveData i b s) := by
  have hm := h.moveBus hn (b := { s.bus with init := i, byte := b, phase := .wAckwait }) rfl rfl nofun
  by_cases ht : s.bus.tgt = .ownSlv
  · have hx : SlaveBusOk ((s.setBus { s.bus with init := i, byte := b, phase := .wAckwait }).setSl { s.sl with rxdat := b }) :=
      { hm with }
    refine (hx.latch (ev := evRxReady) ht nofun (fun _ => rfl) nofun).of_eq ?_ ?_
    · rw [driveData_sl, if_pos ht, slaveLatch_sl]
      rfl
    · rw [driveData_bus, slaveLatch_bus]
      rfl
  · exact hm.of_eq (by rw [driveData_sl, if_neg ht, setBus_sl]) (driveData_bus s i b)

/-! ### The operations -/

theorem serviceCase_slaveBusOk (h : SlaveBusOk s) (hf : s.sl.fatal = false) (hc : ServiceCase s u) : SlaveBusOk u := by
  cases hc with
  | addrMatch _ =>
    obtain ⟨hk, hn⟩ := h.clear hf (x := { s.sl with state := .addressMatched, pend := evNone }) rfl rfl rfl rfl nofun nofun
    exact afterAddrAck_slaveBusOk (hk.of_eq rfl rfl) hn
  | rxReady _ =>
    obtain ⟨hk, hn⟩ := h.clear hf
      (x := { s.sl with last := s.sl.rxdat, lastValid := true, state := .receivingByte, pend := evNone })
      rfl rfl rfl rfl nofun fun _ => rfl
    exact slaveAckData_slaveBusOk (hk.of_eq rfl rfl) hn
  | txReady _ _ =>
    obtain ⟨hk, hn⟩ := h.clear hf
      (x := { s.sl with txdat := txf s.sl.last, state := .transmittingByte, pend := evNone }) rfl rfl rfl rfl nofun nofun
    exact supplyData_slaveBusOk hk hn _ _
  | underrun _ _ =>
    unfold serviceUnderrun
    split
    · exact { h with faultFatal := by simp [hf], receivedValid := nofun }
    · obtain ⟨hk, hn⟩ := h.clear hf (x := { s.sl with state := .transmittingByte, pend := evNone }) rfl rfl rfl rfl nofun nofun
      exact supplyData_slaveBusOk (s := (s.setSl _).nextDraw) (hk.of_eq rfl rfl) hn _ _
  | fault _ => exact { h with faultFatal := by simp [serviceFault], receivedValid := nofun }

theorem opEffect_slaveBusOk (h : SlaveBusOk s) {i : Instr} {w : Word} (he : OpEffect s i w u) : SlaveBusOk u := by
  cases he with
  | serviced w u hfatal _ hc => exact serviceCase_slaveBusOk h hfatal hc
  | slaveEnabled addr _ _ =>
    exact { h with
      targetEnabled := fun _ => rfl
      pendTarget := fun e => ⟨rfl, (h.pendTarget e).2⟩ }
  | unchanged => exact h
  | enabled | taken | described => exact h.of_eq rfl rfl
  | armed | started | chWaited | mWaited => exact h.of_eq (by simp) (by simp)

theorem exec_slaveBusOk (h : SlaveBusOk s) {i : Instr} (he : exec i s = .next t) : SlaveBusOk t := by
  obtain ⟨w, u, hu, rfl⟩ | ⟨k, -, rfl⟩ := exec_outcome he
  · exact (opEffect_slaveBusOk h hu).of_eq rfl rfl
  · exact h.of_eq (by simp) (by simp)

theorem hostTurn_slaveBusOk (h : SlaveBusOk s) {x : Ctx} (hm : HostMove x s t) : SlaveBusOk t := by
  cases hm with
  | passes => exact h
  | staysBlocked => exact h.of_eq rfl rfl
  | chWaitEnds | mWaitEnds => exact h.of_eq (by simp [State.waitReturned]) (by simp [State.waitReturned])
  | rejects => exact h.of_eq (by simp) (by simp)
  | executes p rest i t hp hd he => exact exec_slaveBusOk (h.of_eq (by simp) (by simp)) he

/-! ### The agents -/

/-- The element step touches neither the slave nor the bus (R148). -/
theorem seqStep_sl_bus (c : ChIdx) (s : State) : (seqStep c s).sl = s.sl ∧ (seqStep c s).bus = s.bus := by
  unfold seqStep
  split_ifs
  · exact ⟨rfl, rfl⟩
  · exact ⟨rfl, rfl⟩
  · exact ⟨rfl, rfl⟩
  · simp only [moveElement, readEndpoint, writeEndpoint, countElement, noteMove]
    split <;> split <;> simp

theorem mfuMove_slaveBusOk (h : SlaveBusOk s) {m : MfuStep} (hm : MfuMove s m t) : SlaveBusOk t := by
  have hn := h.noEvent_of_phase
  have hme : ∀ m, SlaveBusOk (s.setMe m) := fun m => h.of_eq rfl rfl
  cases hm with
  | waits => exact h
  | startWon _ present _ hbus => exact (driveAddress_slaveBusOk h (hn (by rw [hbus]; rfl)) _ _ present).of_eq rfl rfl
  | startLost _ present b _ hbus =>
    exact (driveAddress_slaveBusOk h (hn (by rw [hbus]; rfl)) .ext b present).of_eq (by simp) (by simp)
  | wdriveWon _ _ _ _ hbus _ => exact driveData_slaveBusOk (hme (byteTaken s.me)) (hn (by rw [hbus]; rfl)) _ _
  | wdriveLost _ b _ _ _ hbus _ =>
    exact (driveData_slaveBusOk (hme (byteTaken s.me)) (hn (by rw [hbus]; rfl)) .ext b).of_eq (by simp) (by simp)
  | wdone _ _ _ hbus _ => exact (busStop_slaveBusOk h (hn (by rw [hbus]; rfl)) .ownMaster).of_eq rfl rfl
  | rrespondAck _ _ _ hbus => exact readAck_slaveBusOk h (hn (by rw [hbus]; rfl)) _
  | rrespondLast _ _ _ hbus _ => exact (busStop_slaveBusOk h (hn (by rw [hbus]; rfl)) .ownMaster).of_eq rfl rfl
  | nack _ _ hbus => exact (busStop_slaveBusOk h (hn (by rw [hbus]; rfl)) .ownMaster).of_eq rfl rfl
  | dabort _ _ _ _ hbus =>
    have hb : s.bus.phase.mayOwe = false := by rcases hbus with e | e <;> rw [e] <;> rfl
    exact (busStop_slaveBusOk h (hn hb) .ownMaster).of_eq rfl rfl

theorem busMove_slaveBusOk (h : SlaveBusOk s) (hm : BusMove s t) : SlaveBusOk t := by
  cases hm with
  | waits => exact h
  | nobody _ htgt => exact afterAddrNack_slaveBusOk h (h.noEvent_of_target (by rw [htgt]; nofun)) _

theorem envTimeout_slaveBusOk (h : SlaveBusOk s) : SlaveBusOk (envTimeout s) := by
  simp only [envTimeout]
  split_ifs with hc
  · have hh : SlaveBusOk (s.setBus { s.bus with phase := .hung }) :=
      { h with
        pendAddr := fun _ => .inr rfl
        pendRx := fun _ => .inr rfl
        pendTx := fun _ => .inr rfl
        idleFree := nofun }
    exact hh.of_eq (by simp) (by simp)
  · exact h.of_eq (by simp) (by simp)

theorem envSlvFault_slaveBusOk (h : SlaveBusOk s) {code : EvCode} (hcode : isFaultCode code = true) :
    SlaveBusOk (envSlvFault code s) := by
  obtain ⟨-, h1, h2, h3⟩ := fault_code hcode
  exact { h with
    pendTarget := fun e => absurd e (by simp [envSlvFault, h1, h2, h3])
    pendAddr := fun e => absurd e h1
    pendRx := fun e => absurd e h2
    pendTx := fun e => absurd e h3 }

theorem envMove_slaveBusOk (h : SlaveBusOk s) {e : EnvStep} (hm : EnvMove s e t) : SlaveBusOk t := by
  have hext : s.bus.tgt = .extSlv → NoEvent s := fun e => h.noEvent_of_target (by rw [e]; nofun)
  have hend : s.bus.phase = .wIdle ∨ s.bus.phase = .ended → NoEvent s := fun e =>
    h.noEvent_of_phase (by rcases e with e | e <;> rw [e] <;> rfl)
  cases hm with
  | waits => exact h
  | addrAck _ htgt => exact afterAddrAck_slaveBusOk (s := s.record _) (h.of_eq rfl rfl) (hext htgt)
  | addrNack _ htgt => exact afterAddrNack_slaveBusOk h (hext htgt) _
  | wdata ack _ htgt =>
    cases ack with
    | true => exact (h.moveBus (hext htgt) (b := { s.bus with phase := .wIdle }) rfl rfl nofun).of_eq rfl rfl
    | false => exact (h.moveBus (hext htgt) (b := { s.bus with phase := .ended }) rfl rfl nofun).of_eq rfl rfl
  | rdata b _ htgt => exact supplyData_slaveBusOk h (hext htgt) _ b
  | masterStart a7 rw present hbus => exact driveAddress_slaveBusOk h (h.noEvent_of_phase (by rw [hbus]; rfl)) _ _ present
  | masterData b _ hbus => exact driveData_slaveBusOk h (hend (.inl hbus)) _ b
  | masterAck _ hbus => exact readAck_slaveBusOk h (h.noEvent_of_phase (by rw [hbus]; rfl)) _
  | masterNack _ hbus =>
    exact (h.moveBus (h.noEvent_of_phase (by rw [hbus]; rfl)) (b := { s.bus with phase := .ended }) rfl rfl nofun).of_eq
      rfl rfl
  | masterStop _ hbus => exact busStop_slaveBusOk h (hend hbus) _
  | masterRestart a7 rw present _ hbus =>
    have hfreed := h.select (hend hbus) (b := { s.bus with tgt := .none }) (x := .nsel)
      (by rcases hbus with e | e <;> simp [e]) (.inr ⟨nofun, rfl⟩)
    exact driveAddress_slaveBusOk hfreed (hend hbus) _ _ present
  | timeout => exact envTimeout_slaveBusOk h
  | slaveFault code hcode _ => exact envSlvFault_slaveBusOk h hcode

/-! ### Every step -/

theorem resetEngine_slaveBusOk (s : State) : SlaveBusOk (resetEngine s) where
  targetEnabled := nofun
  pendTarget := by simp [resetEngine, Slave.reset, evAddrMatch, evRxReady, evTxReady]
  pendAddr := nofun
  pendRx := nofun
  pendTx := nofun
  faultFatal := by simp [resetEngine, Slave.reset]
  receivedValid := nofun
  idleFree _ := ⟨rfl, rfl⟩
  selTarget := by simp [resetEngine, Slave.reset, Bus.reset]

theorem outsideMove_slaveBusOk (h : SlaveBusOk s) {o : OutsideStep} (hm : OutsideMove s o t) : SlaveBusOk t := by
  cases hm with
  | append => exact h.of_eq (by simp) (by simp)
  | inputs | load | store => exact h.of_eq rfl rfl

theorem takeTurn_slaveBusOk (h : SlaveBusOk s) {turn : Turn} (ht : takeTurn turn s = .next t) : SlaveBusOk t := by
  cases turn with
  | host x => exact hostTurn_slaveBusOk h (hostTurn_move ht)
  | seq c =>
    cases ht
    exact h.of_eq (seqStep_sl_bus c s).1 (seqStep_sl_bus c s).2
  | mfu m =>
    cases ht
    exact mfuMove_slaveBusOk h (mfuStep_move m s)
  | bus =>
    cases ht
    exact busMove_slaveBusOk h (busStep_move s)
  | env e =>
    cases ht
    exact envMove_slaveBusOk h (envStep_move e s)
  | reset =>
    cases ht
    exact resetEngine_slaveBusOk s
  | outside o => exact outsideMove_slaveBusOk h (outsideStep_move ht)

end

end Sys2Proof.Machine

open Sys2Proof Sys2Proof.Machine

/-- Settles O57: every procedure of the bus keeps the invariant where it is run. -/
theorem everyStepKeepsTheSlaveInvariant : Obligations.EveryStepKeepsTheSlaveInvariant := by
  intro s t h hs
  obtain rfl | ⟨turn, rest, -, ht⟩ := step_cases hs
  · exact h
  · exact takeTurn_slaveBusOk (s := s.setSched rest) (h.of_eq rfl rfl) ht

end

section
/-! PROOFS. The invariant of the channels and the master in parts, each about one piece of the state, and the moves of the
engine as they act on the parts (R42 items 1, 2, 3 and 8). -/

namespace Sys2Proof.Machine

/-! ### The parts -/

/-- One channel, as the engine and the master have it (R42 items 1 and 2). -/
structure ChanOk (en : Bool) (m : Master) (c : ChIdx) (x : Chan) : Prop where
  armed : x.active = true → x.own = .xfer ∧ en = true ∧ x.enabled = true ∧ 1 ≤ x.rem.toNat
  taken : x.own ≠ .free → en = true
  masterChannel : x.own = .xfer → x.trig = .i2cMst → c = m.ch ∧ m.phase ≠ .idle
  errStopped : x.err ≠ .none → x.active = false
  nackDone : x.err = .periphNack → c = m.ch ∧ m.phase = .done

/-- The master and the bus (R42 item 8). -/
structure LinkOk (m : Master) (b : Bus) : Prop where
  onBus : m.phase = .addr ∨ m.phase = .data → b.phase = .hung ∨ (b.init = .own ∧ b.phase ≠ .idle)
  ownBus : b.init = .own → b.phase ≠ .idle → b.phase ≠ .hung →
    (m.phase = .addr ∧ (b.phase = .addr ∨ b.phase = .ended)) ∨ (m.phase = .data ∧ b.phase ≠ .addr)
  busDir : (b.phase = .wIdle ∨ b.phase = .wAckwait → b.rw = .w) ∧ (b.phase = .rDatawait ∨ b.phase = .rAckwait → b.rw = .r)
  ownDir : b.init = .own → b.phase ≠ .idle → b.phase ≠ .hung → b.rw = m.dir

/-- A transaction has been started and not yet waited for (R24). -/
def Master.running (m : Master) : Prop := m.phase ≠ .idle ∧ m.phase ≠ .pending

/-- The bytes a transaction has driven or drained, and the one waiting in the data register of a write (R24, R25). -/
def bytesHeld (m : Master) : Nat := m.k.toNat + (if m.dir = .w ∧ m.full = true then 1 else 0)

theorem bytesSeen_eq (s : State) : bytesSeen s = bytesHeld s.me + (s.ch s.me.ch).rem.toNat := rfl

/-- The master and its channel `x`; `dirty` says that something has written into the table (R42 item 3). -/
structure TransferOk (dirty : Bool) (m : Master) (x : Chan) : Prop where
  busy : m.phase ≠ .idle → x.own = .xfer ∧ 1 ≤ m.len.toNat ∧ m.len.toNat ≤ countMax
  pendingFresh : m.phase = .pending → m.k = 0 ∧ m.full = false ∧ x.active = false
  counted : dirty = false → m.running → bytesHeld m + x.rem.toNat ≤ m.len.toNat
  doneStopped : dirty = false → m.phase = .done → x.active = false
  trigger : m.running → x.trig = .i2cMst
  aborted : m.running → x.err = .dmaAbort → 1 ≤ x.rem.toNat ∧ (m.dir = .w → m.full = false)

/-- The buffer of a described transaction is good (R191). -/
def BufferOk (p : Params) (m : Master) : Prop :=
  m.phase ≠ .idle → badMasterBuffer p m.ptr (BitVec.ofNat 32 m.len.toNat) = false

/-- While its channel is armed, the row of a running transaction is the one M.START has built (R194). -/
def RowKept (s : State) : Prop :=
  s.haz.descWrite = false → s.me.running → (s.ch s.me.ch).active = true →
    s.readRow (s.rowAddr s.me.ch) = rowOf (masterTransfer s.par s.me)

/-- What FG is blocked in is still there to be waited for (R146, R204). -/
structure HoldOk (hold : Option Hold) (m : Master) (own : ChIdx → Own) : Prop where
  chHold : ∀ c : ChIdx, hold = some (.chWait c) → own c = .xfer ∧ (m.phase = .idle ∨ m.ch ≠ c)
  mHold : ∀ c : ChIdx, hold = some (.mWait c) → c = m.ch ∧ m.running

/-- The parts together. -/
structure MasterParts (s : State) : Prop where
  chan : ∀ c : ChIdx, ChanOk s.dcm.en s.me c (s.ch c)
  link : LinkOk s.me s.bus
  transfer : TransferOk s.haz.descWrite s.me (s.ch s.me.ch)
  buffer : BufferOk s.par s.me
  row : RowKept s
  hold : HoldOk s.fg.hold s.me (fun c => (s.ch c).own)

/-- The invariant is its parts. -/
theorem masterOk_iff (s : State) : MasterOk s ↔ MasterParts s where
  mp h := {
    chan := fun c => ⟨h.armed c, h.taken c, h.masterChannel c, h.errStopped c, h.nackDone c⟩
    link := ⟨h.onBus, h.ownBus, h.busDir, h.ownDir⟩
    transfer := ⟨h.busy, h.pendingFresh, fun hd hr => h.counted hd hr.1 hr.2, h.doneStopped, fun hr => h.trigger hr.1 hr.2,
      fun hr => h.aborted hr.1 hr.2⟩
    buffer := h.buffer
    row := fun hd hr => h.masterRow hd hr.1 hr.2
    hold := ⟨h.chHold, h.mHold⟩ }
  mpr h := {
    armed := fun c => (h.chan c).armed
    taken := fun c => (h.chan c).taken
    masterChannel := fun c => (h.chan c).masterChannel
    busy := h.transfer.busy
    buffer := h.buffer
    onBus := h.link.onBus
    ownBus := h.link.ownBus
    pendingFresh := h.transfer.pendingFresh
    counted := fun hd h1 h2 => h.transfer.counted hd ⟨h1, h2⟩
    masterRow := fun hd h1 h2 => h.row hd ⟨h1, h2⟩
    doneStopped := h.transfer.doneStopped
    errStopped := fun c => (h.chan c).errStopped
    nackDone := fun c => (h.chan c).nackDone
    busDir := h.link.busDir
    ownDir := h.link.ownDir
    trigger := fun h1 h2 => h.transfer.trigger ⟨h1, h2⟩
    aborted := fun h1 h2 => h.transfer.aborted ⟨h1, h2⟩
    chHold := h.hold.chHold
    mHold := h.hold.mHold }

/-! ### Moves that leave channels and memory alone -/

/-- What the invariant speaks of, but for the master and the bus, is as before. -/
structure RestKept (s t : State) : Prop where
  par : t.par = s.par
  dcm : t.dcm = s.dcm
  chans : t.chans = s.chans
  mem : t.mem = s.mem
  dirty : t.haz.descWrite = s.haz.descWrite
  hold : t.fg.hold = s.fg.hold

/-- A row reads the same in the same memory. -/
theorem readRow_congr {s t : State} (h : t.mem = s.mem) (a : Nat) : t.readRow a = s.readRow a := by
  simp only [State.readRow, State.memRead, h]

theorem rowAddr_congr {s t : State} (h : t.dcm = s.dcm) (c : ChIdx) : t.rowAddr c = s.rowAddr c := by
  simp only [State.rowAddr, h]

/-- Two states of the master that belong to the same transaction. -/
structure SameTransaction (m m' : Master) : Prop where
  ch : m'.ch = m.ch
  dir : m'.dir = m.dir
  ptr : m'.ptr = m.ptr
  len : m'.len = m.len

theorem SameTransaction.masterTransfer {m m' : Master} (h : SameTransaction m m') (p : Params) :
    masterTransfer p m' = masterTransfer p m := by
  simp only [Machine.masterTransfer, h.dir, h.ptr, h.len]

section
variable {s t u : State}

theorem MasterParts.of_eq (h : MasterParts u) (k : RestKept u t) (hme : t.me = u.me) (hbus : t.bus = u.bus) : MasterParts t := by
  have hch := ch_congr k.chans
  refine ⟨fun c => ?_, ?_, ?_, ?_, fun hd hr ha => ?_, ⟨fun c hc => ?_, fun c hc => ?_⟩⟩
  · rw [k.dcm, hme, hch]
    exact h.chan c
  · rw [hme, hbus]
    exact h.link
  · rw [k.dirty, hme, hch]
    exact h.transfer
  · rw [k.par, hme]
    exact h.buffer
  · rw [hme] at hr ha ⊢
    rw [readRow_congr k.mem, rowAddr_congr k.dcm, k.par]
    exact h.row (k.dirty ▸ hd) hr (hch _ ▸ ha)
  · rw [hme]
    exact hch c ▸ h.hold.chHold c (k.hold ▸ hc)
  · rw [hme]
    exact h.hold.mHold c (k.hold ▸ hc)

theorem MasterParts.setSl (h : MasterParts s) (x : Slave) : MasterParts (s.setSl x) :=
  h.of_eq ⟨rfl, rfl, rfl, rfl, rfl, rfl⟩ rfl rfl

theorem MasterParts.record (h : MasterParts s) (e : Rec) : MasterParts (s.record e) :=
  h.of_eq ⟨rfl, rfl, rfl, rfl, rfl, rfl⟩ rfl rfl

theorem MasterParts.nextDraw (h : MasterParts s) : MasterParts s.nextDraw :=
  h.of_eq ⟨rfl, rfl, rfl, rfl, rfl, rfl⟩ rfl rfl

/-- A running transaction goes on, or is done when its channel has stopped: the counts do not grow, and no byte comes into the
data register of a write (R197 to R203, R284, R287). -/
theorem MasterParts.advance (h : MasterParts s) (k : RestKept s t) (hsame : SameTransaction s.me t.me) (hs : s.me.running)
    (ht : t.me.running) (hdone : s.me.phase = .done → t.me.phase = .done) (hlink : LinkOk t.me t.bus)
    (hheld : bytesHeld s.me ≤ countMax → bytesHeld t.me ≤ bytesHeld s.me)
    (hstop : s.haz.descWrite = false → t.me.phase = .done → (s.ch s.me.ch).active = false)
    (hfull : s.me.dir = .w → s.me.full = false → t.me.full = false) : MasterParts t := by
  have hch := ch_congr k.chans
  obtain ⟨hown, hlen⟩ := h.transfer.busy hs.1
  refine ⟨fun c => ?_, hlink, ?_, fun _ => ?_, fun hd _ ha => ?_, ⟨fun c hc => ?_, fun c hc => ?_⟩⟩
  · rw [k.dcm, hch]
    exact { h.chan c with
      masterChannel := fun ho htr => ⟨hsame.ch ▸ ((h.chan c).masterChannel ho htr).1, ht.1⟩
      nackDone := fun he => ⟨hsame.ch ▸ ((h.chan c).nackDone he).1, hdone ((h.chan c).nackDone he).2⟩ }
  · rw [k.dirty, hch, hsame.ch]
    exact {
      busy := fun _ => ⟨hown, hsame.len ▸ hlen⟩
      pendingFresh := fun e => absurd e ht.2
      counted := fun hd _ => by
        have hc := h.transfer.counted hd hs
        have := hheld (by omega)
        rw [hsame.len]
        omega
      doneStopped := hstop
      trigger := fun _ => h.transfer.trigger hs
      aborted := fun _ he => by
        obtain ⟨hrem, hf⟩ := h.transfer.aborted hs he
        exact ⟨hrem, fun hw => by
          rw [hsame.dir] at hw
          exact hfull hw (hf hw)⟩ }
  · rw [k.par, hsame.ptr, hsame.len]
    exact h.buffer hs.1
  · rw [readRow_congr k.mem, rowAddr_congr k.dcm, k.par, hsame.masterTransfer, hsame.ch]
    exact h.row (k.dirty ▸ hd) hs (hch _ ▸ hsame.ch ▸ ha)
  · obtain ⟨ho, hm⟩ := h.hold.chHold c (k.hold ▸ hc)
    exact ⟨hch c ▸ ho, .inr (hsame.ch ▸ hm.resolve_left hs.1)⟩
  · rw [hsame.ch]
    exact ⟨(h.hold.mHold c (k.hold ▸ hc)).1, ht⟩

/-- The bus moves and the master does not. -/
theorem MasterParts.moveBus (h : MasterParts s) (k : RestKept s t) (hme : t.me = s.me) (hlink : LinkOk s.me t.bus) :
    MasterParts t :=
  MasterParts.of_eq (u := s.setBus t.bus) { h with link := hlink } ⟨k.par, k.dcm, k.chans, k.mem, k.dirty, k.hold⟩ hme rfl

end

end Sys2Proof.Machine
end

section
/-! PROOFS. The link of the master and the bus, and the moves that write a channel, on the parts of the invariant (R42 items 2, 3, 8). -/

namespace Sys2Proof.Machine

/-! ### The master and the bus -/

section
variable {m m' : Master} {b b' : Bus}

/-- A transaction that is not the own master's, or none, and a master that is not on the bus. -/
theorem LinkOk.off (haddr : m.phase ≠ .addr) (hdata : m.phase ≠ .data)
    (hb : b.init = .own → b.phase = .idle ∨ b.phase = .hung)
    (hdir : (b.phase = .wIdle ∨ b.phase = .wAckwait → b.rw = .w) ∧ (b.phase = .rDatawait ∨ b.phase = .rAckwait → b.rw = .r)) :
    LinkOk m b where
  onBus e := absurd e (not_or.2 ⟨haddr, hdata⟩)
  ownBus hi h1 h2 := absurd (hb hi) (not_or.2 ⟨h1, h2⟩)
  busDir := hdir
  ownDir hi h1 h2 := absurd (hb hi) (not_or.2 ⟨h1, h2⟩)

/-- While the bus is idle or an external master's, the own master is not on it. -/
theorem LinkOk.not_on_bus (h : LinkOk m b) (hb : b.phase = .idle ∨ (b.init = .ext ∧ b.phase ≠ .hung)) :
    m.phase ≠ .addr ∧ m.phase ≠ .data := by
  rw [← not_or]
  intro hm
  rcases h.onBus hm with e | ⟨e1, e2⟩ <;> rcases hb with e' | ⟨e3, e4⟩ <;> simp_all

/-- The invariant speaks of the phase and the direction of the master only. -/
theorem LinkOk.of_master (h : LinkOk m b) (hp : m'.phase = m.phase) (hd : m'.dir = m.dir) : LinkOk m' b :=
  ⟨hp ▸ h.onBus, hp ▸ h.ownBus, h.busDir, hd ▸ h.ownDir⟩

/-- The bus goes on inside a transaction, in its direction. -/
theorem LinkOk.moveBus (h : LinkOk m b) (hinit : b'.init = b.init) (hrw : b'.rw = b.rw) (hidle : b.phase ≠ .idle)
    (hhung : b.phase ≠ .hung) (hidle' : b'.phase ≠ .idle) (haddr : m.phase = .data → b'.phase ≠ .addr)
    (hphase : m.phase = .addr → b.init = .own → b'.phase = .ended)
    (hdir : (b'.phase = .wIdle ∨ b'.phase = .wAckwait → b.rw = .w) ∧
      (b'.phase = .rDatawait ∨ b'.phase = .rAckwait → b.rw = .r)) : LinkOk m b' where
  onBus hm := by
    rcases h.onBus hm with e | ⟨e, -⟩
    · exact absurd e hhung
    · exact .inr ⟨hinit ▸ e, hidle'⟩
  ownBus hi _ _ := by
    rw [hinit] at hi
    rcases h.ownBus hi hidle hhung with ⟨hm, -⟩ | ⟨hm, -⟩
    · exact .inl ⟨hm, .inr (hphase hm hi)⟩
    · exact .inr ⟨hm, haddr hm⟩
  busDir := hrw ▸ hdir
  ownDir hi _ _ := hrw ▸ h.ownDir (hinit ▸ hi) hidle hhung

/-- In a data phase the own master is past its address. -/
theorem LinkOk.moveData (h : LinkOk m b) (hinit : b'.init = b.init) (hrw : b'.rw = b.rw)
    (hp : b.phase = .wIdle ∨ b.phase = .wAckwait ∨ b.phase = .rDatawait ∨ b.phase = .rAckwait)
    (hp' : b'.phase ≠ .idle ∧ b'.phase ≠ .addr)
    (hdir : (b'.phase = .wIdle ∨ b'.phase = .wAckwait → b.rw = .w) ∧
      (b'.phase = .rDatawait ∨ b'.phase = .rAckwait → b.rw = .r)) : LinkOk m b' := by
  obtain ⟨hidle, hhung, haddr, hended⟩ : b.phase ≠ .idle ∧ b.phase ≠ .hung ∧ b.phase ≠ .addr ∧ b.phase ≠ .ended := by
    rcases hp with e | e | e | e <;> simp [e]
  refine h.moveBus hinit hrw hidle hhung hp'.1 (fun _ => hp'.2) (fun hm hi => ?_) hdir
  rcases h.ownBus hi hidle hhung with ⟨-, e | e⟩ | ⟨e, -⟩
  · exact absurd e haddr
  · exact absurd e hended
  · simp [hm] at e

/-- The bus is taken, or kept, by the external master. -/
theorem LinkOk.external (h : LinkOk m b) (hb : b.phase = .idle ∨ (b.init = .ext ∧ b.phase ≠ .hung)) (hinit : b'.init = .ext)
    (hdir : (b'.phase = .wIdle ∨ b'.phase = .wAckwait → b'.rw = .w) ∧
      (b'.phase = .rDatawait ∨ b'.phase = .rAckwait → b'.rw = .r)) : LinkOk m b' := by
  obtain ⟨haddr, hdata⟩ := h.not_on_bus hb
  exact .off haddr hdata (by simp [hinit]) hdir

end

theorem directionOf_addressByte (a : BusAddr) (d : Dir) : directionOf (addressByte a d) = d := by
  rw [directionOf, addressByte, BitVec.getLsbD_append]
  cases d <;> rfl

/-- `DriveAddress` begins a transaction of `i` in B_ADDR, in the direction of the byte (R283). -/
theorem driveAddress_bus (s : State) (i : Initiator) (ab : Byte) (pr : Bool) :
    ∃ tgt, (driveAddress i ab pr s).bus = ⟨.addr, i, tgt, directionOf ab, ab⟩ := by
  by_cases ho : ownAddressed s ab
  · exact ⟨_, driveAddress_bus_own s i ab pr ho⟩
  · exact ⟨_, driveAddress_bus_ext s i ab pr ho⟩

/-! ### Moves that write a channel -/

section
variable {s t u : State}

theorem TransferOk.mono {d d' : Bool} {m : Master} {x : Chan} (h : TransferOk d m x) (hd : d' = false → d = false) :
    TransferOk d' m x :=
  { h with
    counted := fun e => h.counted (hd e)
    doneStopped := fun e => h.doneStopped (hd e) }

/-- With the master idle nothing is asked of a transaction. -/
theorem TransferOk.of_idle {d : Bool} {m : Master} {x : Chan} (h : m.phase = .idle) : TransferOk d m x where
  busy e := absurd h e
  pendingFresh e := by simp [h] at e
  counted _ e := absurd h e.1
  doneStopped _ e := by simp [h] at e
  trigger e := absurd h e.1
  aborted e := absurd h e.1

/-- The registers of one channel and the byte counters of the master are written. -/
theorem MasterParts.writeChan (h : MasterParts s) {c : ChIdx} (hpar : t.par = s.par) (hdcm : t.dcm = s.dcm)
    (hbus : t.bus = s.bus) (hphase : t.me.phase = s.me.phase) (hsame : SameTransaction s.me t.me)
    (hother : OtherChansKept s t c) (hx : ChanOk s.dcm.en s.me c (t.ch c))
    (htr : TransferOk t.haz.descWrite t.me (t.ch t.me.ch)) (hrow : RowKept t)
    (hhold : HoldOk t.fg.hold s.me (fun d => (t.ch d).own)) : MasterParts t where
  chan d := by
    have hd : ChanOk s.dcm.en s.me d (t.ch d) := by
      by_cases e : d = c
      · exact e ▸ hx
      · exact hother d e ▸ h.chan d
    rw [hdcm]
    exact { hd with
      masterChannel := by rw [hphase, hsame.ch]; exact hd.masterChannel
      nackDone := by rw [hphase, hsame.ch]; exact hd.nackDone }
  link := by
    rw [hbus]
    exact h.link.of_master hphase hsame.dir
  transfer := htr
  buffer := by
    rw [BufferOk, hpar, hphase, hsame.ptr, hsame.len]
    exact h.buffer
  row := hrow
  hold := by
    refine ⟨fun d hd => ?_, fun d hd => ?_⟩
    · rw [hphase, hsame.ch]
      exact hhold.chHold d hd
    · rw [Master.running, hphase, hsame.ch]
      exact hhold.mHold d hd

theorem SameTransaction.refl (m : Master) : SameTransaction m m := ⟨rfl, rfl, rfl, rfl⟩

/-- The row stays as long as its bytes do and the channel is not armed anew. -/
theorem RowKept.of_readRow (h : RowKept s) (hpar : t.par = s.par) (hphase : t.me.phase = s.me.phase)
    (hsame : SameTransaction s.me t.me) (hd : t.haz.descWrite = false → s.haz.descWrite = false)
    (ha : s.me.running → (t.ch s.me.ch).active = true → (s.ch s.me.ch).active = true)
    (hread : t.haz.descWrite = false → s.me.running → t.readRow (t.rowAddr s.me.ch) = s.readRow (s.rowAddr s.me.ch)) :
    RowKept t := by
  intro hd' hr ha'
  rw [Master.running, hphase] at hr
  rw [hsame.ch] at ha' ⊢
  rw [hread hd' hr, hpar, hsame.masterTransfer]
  exact h (hd hd') hr (ha hr ha')

/-- Only the registers of channel `c` are written, and the channel is not armed by it. -/
theorem MasterParts.setCh (h : MasterParts s) {c : ChIdx} {x : Chan} (hc : c.toNat < s.nCh) (hx : ChanOk s.dcm.en s.me c x)
    (htr : c = s.me.ch → TransferOk s.haz.descWrite s.me x) (ha : c = s.me.ch → x.active = true → (s.ch c).active = true)
    (ho : s.fg.hold = some (.chWait c) → x.own = .xfer) : MasterParts (s.setCh c x) := by
  have hsame := ch_setCh_same s c x hc
  have hother : OtherChansKept s (s.setCh c x) c := fun d hd => ch_setCh_other s c d x hd
  have hme := SameTransaction.refl s.me
  refine h.writeChan rfl rfl rfl rfl hme hother (hsame.symm ▸ hx) ?_ ?_ ?_
  · by_cases e : c = s.me.ch
    · simpa [← e, hsame] using htr e
    · simpa [hother _ (Ne.symm e)] using h.transfer
  · refine h.row.of_readRow rfl rfl hme id (fun _ ha' => ?_) (fun _ _ => rfl)
    by_cases e : c = s.me.ch
    · rw [← e] at ha' ⊢
      exact ha e (hsame ▸ ha')
    · exact hother _ (Ne.symm e) ▸ ha'
  · refine ⟨fun d hd => ?_, h.hold.mHold⟩
    by_cases e : d = c
    · subst e
      exact ⟨hsame.symm ▸ ho hd, (h.hold.chHold d hd).2⟩
    · exact hother d e ▸ h.hold.chHold d hd

/-- Writing a channel that does not exist writes nothing. -/
theorem setCh_absent {c : ChIdx} (hc : s.nCh ≤ c.toNat) (x : Chan) : s.setCh c x = s := by
  have : s.chans.set c.toNat x = s.chans := List.set_eq_of_length_le hc
  simp only [State.setCh, this]
  rfl

/-- Stopping a channel keeps the invariant (R157). -/
theorem MasterParts.stop (h : MasterParts s) (c : ChIdx) : MasterParts (stopChannel c s) := by
  by_cases hc : c.toNat < s.nCh
  · refine h.setCh hc { h.chan c with armed := nofun, errStopped := fun _ => rfl } (fun e => ?_) (fun _ => nofun) fun e => ?_
    · subst e
      exact { h.transfer with
        pendingFresh := fun e => ⟨(h.transfer.pendingFresh e).1, (h.transfer.pendingFresh e).2.1, rfl⟩
        doneStopped := fun _ _ => rfl }
    · exact (h.hold.chHold c e).1
  · rw [stopChannel, setCh_absent (by omega)]
    exact h

theorem stopChannel_inactive (s : State) (c : ChIdx) : ((stopChannel c s).ch c).active = false := by
  by_cases hc : c.toNat < s.nCh
  · rw [stopChannel, ch_setCh_same s c _ hc]
  · rw [ch_absent _ c (by rw [stopChannel, nCh_setCh]; omega)]
    rfl

theorem masterFault_rest {s u : State} (k : RestKept s u) (hch : u.me.ch = s.me.ch) (f : MFault) :
    RestKept (stopChannel s.me.ch s) (masterFault f u) where
  par := by simp [k.par]
  dcm := by simp [k.dcm]
  chans := by
    rw [masterFault_chans, hch, stopChannel, stopChannel, setCh_chans, setCh_chans, k.chans, ch_congr k.chans]
  mem := by simp [k.mem]
  dirty := by simp [k.dirty]
  hold := by simp [k.hold]

/-- The own master gives up: the channel is stopped and the transaction is done (R197, R198, R208). -/
theorem MasterParts.fault (h : MasterParts s) (k : RestKept s u) (hsame : SameTransaction s.me u.me) (hs : s.me.running)
    (hinit : u.bus.init = .own → u.bus.phase = .idle ∨ u.bus.phase = .hung)
    (hdir : (u.bus.phase = .wIdle ∨ u.bus.phase = .wAckwait → u.bus.rw = .w) ∧
      (u.bus.phase = .rDatawait ∨ u.bus.phase = .rAckwait → u.bus.rw = .r))
    (hheld : bytesHeld s.me ≤ countMax → bytesHeld u.me ≤ bytesHeld s.me)
    (hfull : s.me.dir = .w → s.me.full = false → u.me.full = false) (f : MFault) : MasterParts (masterFault f u) := by
  refine (h.stop s.me.ch).advance (masterFault_rest k hsame.ch f) ?_ hs ?_ (fun _ => ?_) ?_ ?_
    (fun _ _ => stopChannel_inactive s s.me.ch) ?_
  · rw [masterFault_me]
    exact ⟨hsame.ch, hsame.dir, hsame.ptr, hsame.len⟩
  · rw [masterFault_me]
    exact ⟨nofun, nofun⟩
  · rw [masterFault_me]
  · rw [masterFault_me, masterFault_bus]
    exact .off nofun nofun hinit hdir
  · rw [masterFault_me]
    exact hheld
  · rw [masterFault_me]
    exact hfull

end

end Sys2Proof.Machine
end

section
/-! PROOFS. The agents of the bus keep the invariant of the channels and the master: BUS, ENV, the framing unit, and the cases of
S.SERVICE, which answer on the bus (R197 to R203, R208, R244 to R249, R288 to R295). -/

namespace Sys2Proof.Machine

section
variable {s t u : State}

/-! ### The framing unit -/

theorem bytesHeld_byteTaken {m : Master} (hdir : m.dir = .w) (hfull : m.full = true) (hk : bytesHeld m ≤ countMax) :
    bytesHeld (byteTaken m) ≤ bytesHeld m := by
  simp only [bytesHeld, byteTaken, hdir, hfull, countMax] at hk ⊢
  simp [BitVec.toNat_add] at hk ⊢
  omega

/-- A transaction that is not done and counts to its end has nothing left to move: its channel has stopped. -/
theorem MasterParts.stopped_of_counted (h : MasterParts s) (hr : s.me.running) (hk : s.me.len.toNat ≤ s.me.k.toNat)
    (hd : s.haz.descWrite = false) : (s.ch s.me.ch).active = false := by
  have hc := h.transfer.counted hd hr
  by_contra ha
  have := ((h.chan s.me.ch).armed (by simpa using ha)).2.2.2
  simp only [bytesHeld] at hc
  omega

theorem restKept_driveAddress (s : State) (i : Initiator) (ab : Byte) (pr : Bool) : RestKept s (driveAddress i ab pr s) := by
  constructor <;> simp

theorem restKept_driveData (s : State) (i : Initiator) (b : Byte) (m : Master) : RestKept s (driveData i b (s.setMe m)) := by
  constructor <;> simp

/-- The own master ends its transaction with a STOP (R199, R200, R203). -/
theorem MasterParts.stopDone (h : MasterParts s) (k : RestKept s t) (hme : t.me = { s.me with phase := .done })
    (hbus : t.bus = { s.bus with phase := .idle, tgt := .none }) (hphase : s.me.phase = .data)
    (hstop : s.haz.descWrite = false → (s.ch s.me.ch).active = false) : MasterParts t := by
  have hs : s.me.running := by simp [Master.running, hphase]
  refine h.advance k (by rw [hme]; exact ⟨rfl, rfl, rfl, rfl⟩) hs (by simp [Master.running, hme]) (by simp [hphase]) ?_ ?_ ?_ ?_
  · rw [hme, hbus]
    exact .off nofun nofun (fun _ => .inl rfl) ⟨by simp, by simp⟩
  · rw [hme]
    exact fun _ => le_refl _
  · exact fun hd _ => hstop hd
  · rw [hme]
    exact fun _ => id

/-- NACK is an error of a stopped channel, of a transaction that is done (R157, R202). -/
theorem MasterParts.setNack (h : MasterParts s) {x : Chan} (hx : s.ch s.me.ch = x) (hc : s.me.ch.toNat < s.nCh)
    (hdone : s.me.phase = .done) (ha : x.active = false) : MasterParts (s.setCh s.me.ch { x with err := .periphNack }) := by
  subst hx
  exact h.setCh hc { h.chan s.me.ch with errStopped := fun _ => ha, nackDone := fun _ => ⟨rfl, hdone⟩ }
    (fun _ => { h.transfer with aborted := nofun }) (fun _ => id) fun e => (h.hold.chHold _ e).1

/-- The address or a byte of the own master is refused (R202). -/
theorem mfuNack_masterParts (h : MasterParts s) (hme : s.me.phase = .addr ∨ s.me.phase = .data) : MasterParts (mfuNack s) := by
  have hs : s.me.running := by rcases hme with e | e <;> simp [Master.running, e]
  have hc : s.me.ch.toNat < s.nCh := exists_of_own s _ (by rw [(h.transfer.busy hs.1).1]; nofun)
  have hf := h.fault (u := busStop .ownMaster s) (by constructor <;> simp) (.refl _) hs (fun _ => .inl rfl)
    ⟨by simp, by simp⟩ (fun _ => le_refl _) (fun _ => id) (if s.me.phase = .addr then .nackAddr else .nackData)
  refine (hf.setNack (ch_setCh_same s s.me.ch _ hc) ?_ rfl rfl).of_eq ⟨rfl, rfl, ?_, rfl, rfl, rfl⟩ rfl rfl
  · rw [nCh_congr (masterFault_chans _ _), stopChannel, nCh_setCh]
    exact hc
  · simp [mfuNack, masterFault, stopChannel, ch_setCh_same s s.me.ch _ hc]
    rfl

theorem mfuMove_masterParts (h : MasterParts s) {m : MfuStep} (hm : MfuMove s m t) : MasterParts t := by
  cases hm with
  | waits => exact h
  | startWon _ present hme hbus =>
    obtain ⟨tgt, hb⟩ := driveAddress_bus s .own (addressByte s.me.addr s.me.dir) present
    have k := restKept_driveAddress s .own (addressByte s.me.addr s.me.dir) present
    refine h.advance ⟨k.1, k.2, k.3, k.4, k.5, k.6⟩ ⟨rfl, rfl, rfl, rfl⟩ (by simp [Master.running, hme]) ⟨nofun, nofun⟩
      (by simp [hme]) ?_ (fun _ => le_refl _) (fun _ => nofun) (fun _ => id)
    rw [setMe_me, setMe_bus, hb, directionOf_addressByte]
    exact ⟨fun _ => .inr ⟨rfl, nofun⟩, fun _ _ _ => .inl ⟨rfl, .inl rfl⟩, ⟨by simp, by simp⟩, fun _ _ _ => rfl⟩
  | startLost _ present b hme hbus =>
    obtain ⟨tgt, hb⟩ := driveAddress_bus s .ext b present
    refine h.fault (restKept_driveAddress s .ext b present) ?_ (by simp [Master.running, hme]) ?_ ?_ ?_ ?_ _ <;>
      simp [hb, SameTransaction.refl]
  | wdriveWon _ hme hdir hinit hbus hfull =>
    refine h.advance (restKept_driveData s .own _ (byteTaken s.me)) ?_ (by simp [Master.running, hme]) ?_ (by simp [hme]) ?_ ?_ ?_ ?_
    · simp; exact ⟨rfl, rfl, rfl, rfl⟩
    · simp [Master.running, byteTaken, hme]
    · rw [driveData_me, driveData_bus]
      have hrw := h.link.busDir.1 (.inl hbus)
      exact ⟨fun _ => .inr ⟨rfl, nofun⟩, fun _ _ _ => .inr ⟨hme, nofun⟩, ⟨fun _ => hrw, by simp⟩, fun _ _ _ => hrw.trans hdir.symm⟩
    · rw [driveData_me]
      exact bytesHeld_byteTaken hdir hfull
    · simp [byteTaken, hme]
    · simp [byteTaken]
  | wdriveLost _ b hme hdir hinit hbus hfull =>
    refine h.fault (restKept_driveData s .ext b (byteTaken s.me)) ?_ (by simp [Master.running, hme]) ?_ ?_ ?_ ?_ _
    · simp; exact ⟨rfl, rfl, rfl, rfl⟩
    · simp
    · simp [h.link.busDir.1 (.inl hbus)]
    · rw [driveData_me]
      exact bytesHeld_byteTaken hdir hfull
    · simp [byteTaken]
  | wdone hme hdir hinit hbus hk =>
    exact h.stopDone (by constructor <;> simp) (by simp) (by simp) hme fun hd =>
      h.stopped_of_counted (by simp [Master.running, hme]) (by rw [hk]) hd
  | rrespondAck hme hdir hinit hbus => 
    refine h.moveBus (by constructor <;> simp) (by simp) ?_
    rw [readAck_bus]
    exact h.link.moveData rfl rfl (by simp [hbus]) ⟨nofun, nofun⟩ ⟨by simp, fun _ => h.link.busDir.2 (.inr hbus)⟩
  | rrespondLast hme hdir hinit hbus hk =>
    exact h.stopDone (by constructor <;> simp) (by simp) (by simp) hme fun hd =>
      h.stopped_of_counted (by simp [Master.running, hme]) hk hd
  | nack hme _ _ => exact mfuNack_masterParts h hme
  | dabort l hme hinit herr hbus =>
    exact h.stopDone (by constructor <;> simp) (by simp) (by simp) hme fun hd =>
      (h.chan _).errStopped (by simp [herr])


/-! ### BUS, ENV and S.SERVICE -/

/-- An acknowledged address takes the own master to its data phase, in the direction of the transaction (R284). -/
theorem afterAddrAck_masterParts (h : MasterParts s) : MasterParts (afterAddrAck s) := by
  have k : RestKept s (afterAddrAck s) := by constructor <;> simp
  by_cases hp : s.bus.phase = .addr
  · obtain ⟨p, hb, hp', hdir⟩ : ∃ p, (afterAddrAck s).bus = { s.bus with phase := p } ∧ (p ≠ .idle ∧ p ≠ .addr) ∧
        (p = .wIdle ∨ p = .wAckwait → s.bus.rw = .w) ∧ (p = .rDatawait ∨ p = .rAckwait → s.bus.rw = .r) := by
      rw [afterAddrAck_bus, if_pos hp]
      cases s.bus.rw with
      | w => exact ⟨_, rfl, ⟨nofun, nofun⟩, fun _ => rfl, nofun⟩
      | r => exact ⟨_, rfl, ⟨nofun, nofun⟩, nofun, fun _ => rfl⟩
    cases hi : s.bus.init with
    | ext =>
      refine h.moveBus k (by simp [afterAddrAck_me, hi]) ?_
      rw [hb]
      exact h.link.external (.inr ⟨hi, by simp [hp]⟩) hi hdir
    | own =>
      have hme : s.me.phase = .addr := by
        rcases h.link.ownBus hi (by simp [hp]) (by simp [hp]) with ⟨e, -⟩ | ⟨-, e⟩
        · exact e
        · exact absurd hp e
      have hm : (afterAddrAck s).me = { s.me with phase := .data } := by rw [afterAddrAck_me, if_pos ⟨hp, hi⟩]
      refine h.advance k ?_ (by simp [Master.running, hme]) ?_ ?_ ?_ ?_ ?_ ?_ <;> rw [hm]
      · exact ⟨rfl, rfl, rfl, rfl⟩
      · exact ⟨nofun, nofun⟩
      · simp [hme]
      · rw [hb]
        exact ⟨fun _ => .inr ⟨hi, hp'.1⟩, fun _ _ _ => .inr ⟨rfl, hp'.2⟩, hdir,
          fun _ _ _ => h.link.ownDir hi (by simp [hp]) (by simp [hp])⟩
      · exact fun _ => le_refl _
      · exact fun _ => nofun
      · exact fun _ => id
  · exact h.of_eq k (by simp [afterAddrAck_me, hp]) (by simp [afterAddrAck_bus, hp])

/-- A supplied byte lands in the data register of a read (R287). -/
theorem supplyData_masterParts (h : MasterParts s) (d : Driver) (b : Byte) : MasterParts (supplyData d b s) := by
  have k : RestKept s (supplyData d b s) := by constructor <;> simp
  by_cases hp : s.bus.phase = .rDatawait
  · have hrw := h.link.busDir.2 (.inl hp)
    have hlink : LinkOk s.me (supplyData d b s).bus := by
      rw [supplyData_bus, if_pos hp]
      exact h.link.moveData rfl rfl (by simp [hp]) ⟨nofun, nofun⟩ ⟨by simp, fun _ => hrw⟩
    cases hi : s.bus.init with
    | ext => exact h.moveBus k (by simp [supplyData_me, hi]) hlink
    | own =>
      have hdir : s.me.dir = .r := (h.link.ownDir hi (by simp [hp]) (by simp [hp])).symm.trans hrw
      have hme : s.me.phase = .data := by
        rcases h.link.ownBus hi (by simp [hp]) (by simp [hp]) with ⟨-, e⟩ | ⟨e, -⟩
        · simp [hp] at e
        · exact e
      have hm : (supplyData d b s).me = { s.me with dat := b, full := true } := by rw [supplyData_me, if_pos ⟨hp, hi⟩]
      refine h.advance k ?_ (by simp [Master.running, hme]) ?_ ?_ ?_ ?_ ?_ ?_ <;> rw [hm]
      · exact ⟨rfl, rfl, rfl, rfl⟩
      · simp [Master.running, hme]
      · exact id
      · exact hlink.of_master rfl rfl
      · simp [bytesHeld, hdir]
      · simp [hme]
      · simp [hdir]
  · exact h.of_eq k (by simp [supplyData_me, hp]) (by simp [supplyData_bus, hp])

theorem slaveAckData_masterParts (h : MasterParts s) : MasterParts (slaveAckData s) := by
  have k : RestKept s (slaveAckData s) := by constructor <;> simp
  refine h.moveBus k (by simp) ?_
  rw [slaveAckData_bus]
  split_ifs with hp
  · exact h.link.moveData rfl rfl (by simp [hp]) ⟨nofun, nofun⟩ ⟨fun _ => h.link.busDir.1 (.inr hp), by simp⟩
  · exact h.link

theorem afterAddrNack_masterParts (h : MasterParts s) (hp : s.bus.phase = .addr) (d : Driver) :
    MasterParts (afterAddrNack d s) := by
  refine h.moveBus (by constructor <;> simp) rfl (h.link.moveBus rfl rfl ?_ ?_ ?_ ?_ ?_ ?_) <;> simp [hp]

theorem envXsWdata_masterParts (h : MasterParts s) (hp : s.bus.phase = .wAckwait) (ack : Bool) :
    MasterParts (envXsWdata ack s) := by
  have hrw := h.link.busDir.1 (.inr hp)
  cases ack with
  | true =>
    have hlink : LinkOk s.me { s.bus with phase := .wIdle } :=
      h.link.moveData rfl rfl (by simp [hp]) ⟨nofun, nofun⟩ ⟨fun _ => hrw, by simp⟩
    exact h.moveBus ⟨rfl, rfl, rfl, rfl, rfl, rfl⟩ rfl hlink
  | false =>
    have hlink : LinkOk s.me { s.bus with phase := .ended } :=
      h.link.moveData rfl rfl (by simp [hp]) ⟨nofun, nofun⟩ ⟨by simp, by simp⟩
    exact h.moveBus ⟨rfl, rfl, rfl, rfl, rfl, rfl⟩ rfl hlink

theorem serviceCase_masterParts (h : MasterParts s) (hc : ServiceCase s u) : MasterParts u := by
  cases hc with
  | addrMatch => exact afterAddrAck_masterParts ((h.setSl _).record _)
  | rxReady => exact slaveAckData_masterParts ((h.setSl _).record _)
  | txReady => exact supplyData_masterParts (h.setSl _) _ _
  | underrun =>
    unfold serviceUnderrun
    split
    · exact h.setSl _
    · exact supplyData_masterParts (h.setSl _).nextDraw _ _
  | fault => exact h.setSl _

theorem busMove_masterParts (h : MasterParts s) (hm : BusMove s t) : MasterParts t := by
  cases hm with
  | waits => exact h
  | nobody hbus _ => exact afterAddrNack_masterParts h hbus _

/-- A timeout ends the transaction, and hangs the bus if the own master was on it (R208). -/
theorem envTimeout_masterParts (h : MasterParts s) (hme : s.me.phase = .start ∨ s.me.phase = .addr ∨ s.me.phase = .data) :
    MasterParts (envTimeout s) := by
  have hs : s.me.running := by rcases hme with e | e | e <;> simp [Master.running, e]
  simp only [envTimeout]
  split_ifs with hc
  · exact h.fault (u := (s.record (.fault .busTimeout)).setBus { s.bus with phase := .hung }) ⟨rfl, rfl, rfl, rfl, rfl, rfl⟩
      (.refl _) hs (fun _ => .inr rfl) ⟨by simp, by simp⟩ (fun _ => le_refl _) (fun _ => id) _
  · refine h.fault (u := s.record (.fault .busTimeout)) ⟨rfl, rfl, rfl, rfl, rfl, rfl⟩ (.refl _) hs (fun hi => ?_)
      h.link.busDir (fun _ => le_refl _) (fun _ => id) _
    by_contra hn
    obtain ⟨hidle, hhung⟩ := not_or.1 hn
    rw [record_bus] at hi hidle hhung
    rcases h.link.ownBus hi hidle hhung with ⟨e, -⟩ | ⟨e, -⟩
    · exact hc (by simpa [e, hi] using hidle)
    · exact hc (by simpa [e, hi] using hidle)

theorem envXmRestart_masterParts (h : MasterParts s) (hinit : s.bus.init = .ext)
    (hbus : s.bus.phase = .wIdle ∨ s.bus.phase = .ended) (a7 : BusAddr) (rw : Dir) (present : Bool) :
    MasterParts (envXmRestart a7 rw present s) := by
  have hh : s.bus.phase ≠ .hung := by rcases hbus with e | e <;> simp [e]
  obtain ⟨tgt, hb⟩ := driveAddress_bus ((s.setBus { s.bus with tgt := .none }).setSl { s.sl with sel := .nsel }) .ext
    (addressByte a7 rw) present
  refine h.moveBus (by constructor <;> simp [envXmRestart]) (by simp [envXmRestart]) ?_
  rw [envXmRestart, hb]
  exact h.link.external (.inr ⟨hinit, hh⟩) rfl ⟨by simp, by simp⟩

theorem envMove_masterParts (h : MasterParts s) {e : EnvStep} (hm : EnvMove s e t) : MasterParts t := by
  cases hm with
  | waits => exact h
  | addrAck => exact afterAddrAck_masterParts (h.record _)
  | addrNack hbus _ => exact afterAddrNack_masterParts h hbus _
  | wdata ack hbus _ => exact envXsWdata_masterParts h hbus ack
  | rdata b _ _ => exact supplyData_masterParts h _ b
  | masterStart a7 rw present hbus =>
    obtain ⟨tgt, hb⟩ := driveAddress_bus s .ext (addressByte a7 rw) present
    refine h.moveBus (restKept_driveAddress s _ _ present) (by simp) ?_
    rw [hb]
    exact h.link.external (.inl hbus) rfl ⟨by simp, by simp⟩
  | masterData b hinit hbus =>
    refine h.moveBus (restKept_driveData s _ b s.me) (driveData_me s _ b) ?_
    rw [driveData_bus]
    exact h.link.external (.inr ⟨hinit, by simp [hbus]⟩) rfl ⟨fun _ => h.link.busDir.1 (.inl hbus), by simp⟩
  | masterAck hinit hbus =>
    refine h.moveBus (by constructor <;> simp) (by simp) ?_
    rw [readAck_bus]
    exact h.link.external (.inr ⟨hinit, by simp [hbus]⟩) hinit ⟨by simp, fun _ => h.link.busDir.2 (.inr hbus)⟩
  | masterNack hinit hbus =>
    exact h.moveBus ⟨rfl, rfl, rfl, rfl, rfl, rfl⟩ rfl
      (h.link.external (.inr ⟨hinit, by simp [hbus]⟩) hinit ⟨by simp, by simp⟩)
  | masterStop hinit hbus =>
    have hh : s.bus.phase ≠ .hung := by rcases hbus with e | e <;> simp [e]
    exact h.moveBus ⟨rfl, rfl, rfl, rfl, rfl, rfl⟩ rfl (h.link.external (.inr ⟨hinit, hh⟩) hinit ⟨by simp, by simp⟩)
  | masterRestart a7 rw present hinit hbus => exact envXmRestart_masterParts h hinit hbus a7 rw present
  | timeout hme => exact envTimeout_masterParts h hme
  | slaveFault => exact (h.record _).setSl _

end
end Sys2Proof.Machine
end

section
/-! PROOFS. Rows in memory: a row that is written reads back, and a row none of whose bytes is written stays (R72, R107, R144); and
where the row of a master transaction points (R109, R193). -/

namespace Sys2Proof.Machine

/-! ### Reading rows -/

/-- A wide read depends on the bytes it reads only. -/
theorem readLE_congr {m m' : Memory} {a n : Nat} (h : ∀ y, a ≤ y → y < a + n → m'.read y = m.read y) :
    m'.readLE a n = m.readLE a n := by
  induction n generalizing a with
  | zero => rfl
  | succ n ih =>
    rw [Memory.readLE, Memory.readLE, h a (by omega) (by omega), ih fun y h1 h2 => h y (by omega) (by omega)]

/-- A wide write reads back, low bytes first. -/
theorem readLE_writeLE_same {m : Memory} (hm : Memory.sorted m) (a n v : Nat) :
    (m.writeLE a n v).readLE a n = v % 256 ^ n := by
  induction n generalizing m a v with
  | zero => simp [Memory.readLE, Nat.mod_one]
  | succ n ih =>
    rw [Memory.readLE, Memory.writeLE, ih (write_sorted _ _ _ hm), read_writeLE_other _ _ _ _ _ (by omega),
      read_write_same _ _ _ hm, BitVec.toNat_ofNat, pow_succ' 256 n, Nat.mod_mul]

theorem readLE_writeLE_other {m : Memory} {a n b k v : Nat} (h : b + k ≤ a ∨ a + n ≤ b) :
    (m.writeLE a n v).readLE b k = m.readLE b k :=
  readLE_congr fun y h1 h2 => read_writeLE_other _ _ _ _ _ (by omega)

/-- A row none of whose bytes has changed reads as before. -/
theorem readRow_of_bytes {s t : State} {a : Nat} (h : ∀ y, a ≤ y → y < a + 16 → t.byteAt y = s.byteAt y) :
    t.readRow a = s.readRow a := by
  have hw : ∀ k, k ≤ 12 → t.memRead (a + k) 4 = s.memRead (a + k) 4 := fun k hk => by
    rw [State.memRead, State.memRead, readLE_congr fun y h1 h2 => h y (by omega) (by omega)]
  rw [State.readRow, State.readRow, hw offCfg (by decide), hw offSrcEnd (by decide), hw offDstEnd (by decide),
    hw offNext (by decide)]

theorem memRead_memWrite_same {s : State} (hm : Memory.sorted s.mem) (a : Nat) (v : Word) :
    (s.memWrite a 4 v).memRead a 4 = v := by
  rw [State.memRead, memWrite_mem, readLE_writeLE_same hm]
  apply BitVec.eq_of_toNat_eq
  have := v.isLt
  simp only [BitVec.toNat_ofNat]
  omega

theorem memRead_memWrite_other {s : State} {a b : Nat} (h : b + 4 ≤ a ∨ a + 4 ≤ b) (v : Word) :
    (s.memWrite a 4 v).memRead b 4 = s.memRead b 4 := by
  rw [State.memRead, memWrite_mem, readLE_writeLE_other h, State.memRead]

/-- The row the builder has written reads back. -/
theorem readRow_writeRow {s : State} (hm : Memory.sorted s.mem) (a : Nat) (r : Row) : (s.writeRow a r).readRow a = r := by
  have h1 : Memory.sorted (s.memWrite (a + 0) 4 r.cfg).mem := writeLE_sorted _ _ _ _ hm
  have h2 : Memory.sorted ((s.memWrite (a + 0) 4 r.cfg).memWrite (a + 4) 4 r.srcEnd).mem := writeLE_sorted _ _ _ _ h1
  have h3 : Memory.sorted (((s.memWrite (a + 0) 4 r.cfg).memWrite (a + 4) 4 r.srcEnd).memWrite (a + 8) 4 r.dstEnd).mem :=
    writeLE_sorted _ _ _ _ h2
  have hcfg : (s.writeRow a r).memRead (a + 0) 4 = r.cfg := by
    rw [State.writeRow, offCfg, offSrcEnd, offDstEnd, offNext, memRead_memWrite_other (by omega),
      memRead_memWrite_other (by omega), memRead_memWrite_other (by omega), memRead_memWrite_same hm]
  have hsrc : (s.writeRow a r).memRead (a + 4) 4 = r.srcEnd := by
    rw [State.writeRow, offCfg, offSrcEnd, offDstEnd, offNext, memRead_memWrite_other (by omega),
      memRead_memWrite_other (by omega), memRead_memWrite_same h1]
  have hdst : (s.writeRow a r).memRead (a + 8) 4 = r.dstEnd := by
    rw [State.writeRow, offCfg, offSrcEnd, offDstEnd, offNext, memRead_memWrite_other (by omega), memRead_memWrite_same h2]
  have hnext : (s.writeRow a r).memRead (a + 12) 4 = r.next := by
    rw [State.writeRow, offCfg, offSrcEnd, offDstEnd, offNext, memRead_memWrite_same h3]
  rw [State.readRow, offCfg, offSrcEnd, offDstEnd, offNext, hcfg, hsrc, hdst, hnext]

/-- Two rows of the table have no byte in common (R76, R107). -/
theorem rowAddr_disjoint (s : State) {c d : ChIdx} (h : c ≠ d) :
    s.rowAddr c + 16 ≤ s.rowAddr d ∨ s.rowAddr d + 16 ≤ s.rowAddr c := by
  have : c.toNat ≠ d.toNat := fun e => h (BitVec.eq_of_toNat_eq e)
  simp only [State.rowAddr, descRowBytes, chSlot]
  omega

/-- Building one row leaves the others. -/
theorem readRow_writeRow_other (s : State) {c d : ChIdx} (h : d ≠ c) (r : Row) :
    (s.writeRow (s.rowAddr c) r).readRow (s.rowAddr d) = s.readRow (s.rowAddr d) :=
  readRow_of_bytes fun y h1 h2 => writeRow_keeps s _ r y (by have := rowAddr_disjoint s h; simp only [descRowBytes]; omega)

/-- A store that does not hit the table of an enabled engine leaves its rows. -/
theorem readRow_of_not_hit {s t : State} {a n : Nat} (hkept : BytesKeptOutside s t a n) (hen : s.dcm.en = true)
    (hhit : s.hitsTable a n = false) {c : ChIdx} (hc : c.toNat < s.nCh) : t.readRow (s.rowAddr c) = s.readRow (s.rowAddr c) := by
  refine readRow_of_bytes fun y h1 h2 => hkept y ?_
  have hout : ¬ (a < s.dcm.base.toNat + 16 * s.nCh ∧ s.dcm.base.toNat < a + n) := fun ⟨p, q⟩ => by
    simp [State.hitsTable, State.tableBytes, descRowBytes, hen, p, q] at hhit
  simp only [State.rowAddr, descRowBytes, chSlot] at h1 h2
  omega

/-! ### The row of a master transaction -/

section
variable {t : Transfer} (hw : t.width < 4)
include hw

/-- The bits of `CFG` from 8 to 15: WIDTH, SRCINC, DSTINC (R108). -/
theorem cfgWord_getLsbD {i : Nat} (h8 : 8 ≤ i) (h16 : i < 16) :
    (cfgWord t).getLsbD i =
      ((decide (i < 10) && t.width.testBit (i - 8)) || (decide (i = 12) && t.srcInc) || (decide (i = 14) && t.dstInc)) := by
  have hbit : 10 ≤ i → t.width.testBit (i - 8) = false := fun h =>
    Nat.testBit_lt_two_pow (lt_of_lt_of_le hw (Nat.pow_le_pow_right (n := 2) (i := 2) (by decide) (by omega)))
  have hof : (BitVec.ofNat 32 t.width).getLsbD (i - 8) = t.width.testBit (i - 8) := by
    rw [BitVec.getLsbD_ofNat, decide_eq_true (by omega), Bool.true_and]
  simp only [cfgWord, BitVec.getLsbD_or, BitVec.getLsbD_shiftLeft, incWord, hof]
  cases t.srcInc <;> cases t.dstInc <;> interval_cases i <;> simp_all

theorem cfgWidth_cfgWord : cfgWidth (cfgWord t) = t.width := by
  have he : (cfgWord t).extractLsb' 8 2 = BitVec.ofNat 2 t.width := by
    refine BitVec.eq_of_getLsbD_eq fun i hi => ?_
    rw [BitVec.getLsbD_extractLsb', cfgWord_getLsbD hw (by omega) (by omega), BitVec.getLsbD_ofNat]
    interval_cases i <;> simp
  rw [cfgWidth, he, BitVec.toNat_ofNat]
  omega

theorem cfgSrcInc_cfgWord : cfgSrcInc (cfgWord t) = t.srcInc := by
  rw [cfgSrcInc, cfgWord_getLsbD hw (by decide) (by decide)]
  simp

theorem cfgDstInc_cfgWord : cfgDstInc (cfgWord t) = t.dstInc := by
  rw [cfgDstInc, cfgWord_getLsbD hw (by decide) (by decide)]
  simp

end

/-- The endpoint that does not increment stays at its start (R109). -/
theorem elemAddr_fixed (start count : Word) (r : Count) (w : Nat) :
    elemAddr (endAddr start count w false) r w false = start := by
  simp [elemAddr, endAddr, incWord]

/-- The byte with `r` remaining of a buffer of `n` bytes lies in it (R109). -/
theorem elemAddr_in_buffer {ptr : Word} {n : Nat} {r : Count} (hn : n ≤ countMax) (hwrap : ptr.toNat + n ≤ 2 ^ 32)
    (h1 : 1 ≤ r.toNat) (hr : r.toNat ≤ n) :
    (elemAddr (endAddr ptr (BitVec.ofNat 32 n) 0 true) r 0 true).toNat = ptr.toNat + n - r.toNat := by
  have := ptr.isLt
  simp only [countMax] at hn
  simp [elemAddr, endAddr, incWord, elemBytes, BitVec.toNat_add, BitVec.toNat_sub]
  omega

section
variable {p : Params} {m : Master} (hbuf : badMasterBuffer p m.ptr (BitVec.ofNat 32 m.len.toNat) = false)
  {r : Count} (h1 : 1 ≤ r.toNat) (hr : r.toNat ≤ m.len.toNat)

theorem masterTransfer_width (p : Params) (m : Master) : (masterTransfer p m).width = 0 := by
  unfold masterTransfer
  cases m.dir <;> rfl

include hbuf h1 hr

/-- No byte of the buffer of a transaction is the data port (R191). -/
theorem buffer_ne_port :
    elemAddr (endAddr m.ptr (m.len.setWidth 32) 0 true) r 0 true ≠ p.aMstdat := by
  have hlen : (BitVec.ofNat 32 m.len.toNat).toNat = m.len.toNat := by
    have := m.len.isLt
    simp only [BitVec.toNat_ofNat]
    omega
  simp only [badMasterBuffer, spanContains, hlen, Bool.or_eq_false_iff, decide_eq_false_iff_not, Bool.and_eq_false_iff] at hbuf
  obtain ⟨⟨hmax, hwrap⟩, hport⟩ := hbuf
  intro e
  have he := elemAddr_in_buffer (ptr := m.ptr) (n := m.len.toNat) (r := r) (by omega) (by omega) h1 hr
  rw [BitVec.ofNat_toNat, e] at he
  omega

/-- A write transaction moves from its buffer to the data port, a read transaction from the port to its buffer (R193). -/
theorem masterRow_ports :
    (rowSource p (rowOf (masterTransfer p m)) r).port = decide (m.dir = .r) ∧
    (rowDest p (rowOf (masterTransfer p m)) r).port = decide (m.dir = .w) := by
  have hw : (masterTransfer p m).width < 4 := by
    rw [masterTransfer_width]
    decide
  have hne := buffer_ne_port hbuf h1 hr
  simp only [rowSource, rowDest, rowOf, cfgWidth_cfgWord hw, cfgSrcInc_cfgWord hw, cfgDstInc_cfgWord hw]
  cases hd : m.dir <;> simp [masterTransfer, hd, elemAddr_fixed, hne]

end

end Sys2Proof.Machine
end

section
/-! PROOFS. The element step and the host's own stores keep the invariant of the channels and the master (R148, R150, R366). -/

namespace Sys2Proof.Machine

/-! ### What an element move does -/

/-- Only the master, memory and the draw counter may differ. -/
structure EndpointKept (s t : State) : Prop where
  par : t.par = s.par
  dcm : t.dcm = s.dcm
  chans : t.chans = s.chans
  sl : t.sl = s.sl
  bus : t.bus = s.bus
  inp : t.inp = s.inp
  haz : t.haz = s.haz
  trace : t.trace = s.trace
  fg : t.fg = s.fg
  int : t.int = s.int
  cur : t.cur = s.cur
  sched : t.sched = s.sched

/-- The master registers after a read of an endpoint (R78). -/
def readMaster (port : Bool) (m : Master) : Master := if port then byteTaken m else m

/-- The master registers after a write of an endpoint; `b` is the byte (R78). -/
def writtenMaster (port : Bool) (b : Byte) (m : Master) : Master := if port then { m with dat := b, full := true } else m

section
variable (e : Endpoint) (w : Nat) (v : Word) (s : State)

theorem readEndpoint_kept : EndpointKept s (readEndpoint e w s).2 := by
  unfold readEndpoint
  split
  · constructor <;> simp
  · constructor <;> rfl

theorem readEndpoint_me : (readEndpoint e w s).2.me = readMaster e.port s.me := by
  cases h : e.port <;> simp [readEndpoint, readMaster, byteTaken, h]

theorem readEndpoint_mem : (readEndpoint e w s).2.mem = s.mem := by
  cases h : e.port <;> simp [readEndpoint, h]

theorem writeEndpoint_kept : EndpointKept s (writeEndpoint e w v s) := by
  unfold writeEndpoint
  split <;> constructor <;> rfl

theorem writeEndpoint_me : (writeEndpoint e w v s).me = writtenMaster e.port (v.setWidth 8) s.me := by
  cases h : e.port <;> simp [writeEndpoint, writtenMaster, h]

theorem writeEndpoint_mem :
    (writeEndpoint e w v s).mem = if e.port then s.mem else s.mem.writeLE e.addr.toNat w v.toNat := by
  cases h : e.port <;> simp [writeEndpoint, h]

end

/-- The registers of a channel after one element (R148, R151). -/
def countedChan (x : Chan) : Chan := { x with rem := x.rem - 1, active := x.active && decide (x.rem - 1 ≠ 0) }

/-- `ElementMoved c sp dp w s t`: what is in `t` after channel `c` has moved an element of `w` bytes from endpoint `sp` to
endpoint `dp` (R148). -/
structure ElementMoved (c : ChIdx) (sp dp : Endpoint) (w : Nat) (s t : State) : Prop where
  par : t.par = s.par
  dcm : t.dcm = s.dcm
  bus : t.bus = s.bus
  fg : t.fg = s.fg
  sched : t.sched = s.sched
  chans : t.chans = s.chans.set c.toNat (countedChan (s.ch c))
  me : ∃ b, t.me = writtenMaster dp.port b (readMaster sp.port s.me)
  mem : ∃ v, t.mem = if dp.port then s.mem else s.mem.writeLE dp.addr.toNat w v
  haz : ∃ q, t.haz = ⟨s.haz.descWrite || (!dp.port && s.hitsTable dp.addr.toNat w), s.haz.bufferAlias || q⟩
  trace : ∃ r, t.trace = s.trace ++ [r]

theorem moveElement_moved (c : ChIdx) (row : Row) (s : State) :
    ElementMoved c (rowSource s.par row (s.ch c).rem) (rowDest s.par row (s.ch c).rem) (elemBytes (cfgWidth row.cfg)) s
      (moveElement c row s) := by
  simp only [moveElement]
  generalize rowSource s.par row (s.ch c).rem = sp
  generalize rowDest s.par row (s.ch c).rem = dp
  generalize elemBytes (cfgWidth row.cfg) = w
  have hn : (noteMove c sp dp w s).chans = s.chans := rfl
  have hr := readEndpoint_kept sp w (noteMove c sp dp w s)
  have hrm := readEndpoint_me sp w (noteMove c sp dp w s)
  have hrmem := readEndpoint_mem sp w (noteMove c sp dp w s)
  generalize readEndpoint sp w (noteMove c sp dp w s) = x at hr hrm hrmem
  have hw := writeEndpoint_kept dp w x.1 x.2
  have hwm := writeEndpoint_me dp w x.1 x.2
  have hwmem := writeEndpoint_mem dp w x.1 x.2
  generalize writeEndpoint dp w x.1 x.2 = u at hw hwm hwmem
  have hch : u.ch c = s.ch c := ch_congr (hw.chans.trans hr.chans) c
  simp only [countElement]
  exact {
    par := hw.par.trans hr.par
    dcm := hw.dcm.trans hr.dcm
    bus := hw.bus.trans hr.bus
    fg := hw.fg.trans hr.fg
    sched := hw.sched.trans hr.sched
    chans := by
      rw [setCh_chans, record_chans, hw.chans, hr.chans, hn, ch_congr (record_chans u _), hch]
      rfl
    me := ⟨x.1.setWidth 8, by rw [setCh_me, record_me, hwm, hrm]; rfl⟩
    mem := ⟨x.1.toNat, by rw [setCh_mem, record_mem, hwmem, hrmem]; rfl⟩
    haz := ⟨_, by rw [setCh_haz, record_haz, hw.haz, hr.haz]; rfl⟩
    trace := ⟨_, by rw [setCh_trace, record_trace, hw.trace, hr.trace]; rfl⟩ }

/-- What a row that does not abort says: only the master's trigger goes with the port, and memory admits the destination. -/
theorem rowAborts_false {s : State} {c : ChIdx} {row : Row} (h : rowAborts s c row = false) :
    ((rowSource s.par row (s.ch c).rem).port = true ∨ (rowDest s.par row (s.ch c).rem).port = true →
      (s.ch c).trig = .i2cMst) ∧
    ((rowDest s.par row (s.ch c).rem).port = false →
      memAdmit s.par (rowDest s.par row (s.ch c).rem).addr.toNat (elemBytes (cfgWidth row.cfg)) = true) := by
  simp only [rowAborts, Bool.or_eq_false_iff, Bool.and_eq_false_iff, Bool.not_eq_false', decide_eq_false_iff_not, ne_eq,
    not_not] at h
  obtain ⟨⟨⟨-, hport⟩, -⟩, hadm⟩ := h
  refine ⟨fun hp => ?_, fun hp => hadm.resolve_left (by simp [hp])⟩
  rcases hport with ⟨h1, h2⟩ | ⟨-, h⟩
  · simp [h1, h2] at hp
  · exact h

/-! ### The element step and the invariant -/

theorem moved_phase (source dest : Bool) (b : Byte) (m : Master) :
    (writtenMaster dest b (readMaster source m)).phase = m.phase := by
  cases source <;> cases dest <;> rfl

theorem moved_same (source dest : Bool) (b : Byte) (m : Master) :
    SameTransaction m (writtenMaster dest b (readMaster source m)) := by
  cases source <;> cases dest <;> exact ⟨rfl, rfl, rfl, rfl⟩

theorem countedChan_rem {x : Chan} (h : 1 ≤ x.rem.toNat) : (countedChan x).rem.toNat = x.rem.toNat - 1 := by
  have := x.rem.isLt
  simp only [countedChan, BitVec.toNat_sub]
  simp
  omega

theorem countedChan_active {x : Chan} (h : (countedChan x).active = true) :
    x.active = true ∧ 1 ≤ (countedChan x).rem.toNat := by
  simp only [countedChan, Bool.and_eq_true, decide_eq_true_eq] at h ⊢
  refine ⟨h.1, Nat.pos_of_ne_zero fun e => h.2 (BitVec.eq_of_toNat_eq e)⟩

section
variable {s t : State} {c : ChIdx}

/-- The master's element step needs the request of the data register (R147, R196). -/
theorem SeqMayMove.request (hmay : SeqMayMove s s.me.ch) (htrig : (s.ch s.me.ch).trig = .i2cMst) :
    s.me.phase = .data ∧ ((s.me.dir = .w ∧ s.me.full = false) ∨ (s.me.dir = .r ∧ s.me.full = true)) := by
  obtain ⟨-, -, -, -, -, e | ⟨-, -, hp, -, hd⟩⟩ := hmay
  · simp [htrig] at e
  · exact ⟨hp, hd.imp (fun ⟨a, _, b⟩ => ⟨a, b⟩) fun ⟨a, _, b⟩ => ⟨a, b⟩⟩

/-- As long as the table is clean, an element of the master's channel is one byte between its buffer and the port: the sum of
the bytes moved and to move stays (R193, R196). -/
theorem MasterParts.counted_moved (h : MasterParts s) (hrun : s.me.running) (hmay : SeqMayMove s s.me.ch)
    (hd : s.haz.descWrite = false) (b : Byte) :
    bytesHeld (writtenMaster (rowDest s.par (s.readRow (s.rowAddr s.me.ch)) (s.ch s.me.ch).rem).port b
      (readMaster (rowSource s.par (s.readRow (s.rowAddr s.me.ch)) (s.ch s.me.ch).rem).port s.me)) +
      (countedChan (s.ch s.me.ch)).rem.toNat ≤ s.me.len.toNat := by
  have hact := hmay.2.2.2.1
  have h1 := ((h.chan s.me.ch).armed hact).2.2.2
  have hcount := h.transfer.counted hd hrun
  have hmax := (h.transfer.busy hrun.1).2.2
  obtain ⟨hsrc, hdst⟩ := masterRow_ports (h.buffer hrun.1) h1 (by omega)
  rw [h.row hd hrun hact, hsrc, hdst, countedChan_rem h1]
  simp only [countMax] at hmax
  rcases (hmay.request (h.transfer.trigger hrun)).2 with ⟨hdir, hfull⟩ | ⟨hdir, hfull⟩
  · simp [bytesHeld, writtenMaster, readMaster, hdir, hfull] at hcount ⊢
    omega
  · simp [bytesHeld, writtenMaster, readMaster, byteTaken, hdir, hfull, BitVec.toNat_add] at hcount ⊢
    omega

/-- An abort keeps the invariant (R150). -/
theorem abort_masterParts (h : MasterParts s) (hmay : SeqMayMove s c) : MasterParts (abort c s) := by
  have hact := hmay.2.2.2.1
  obtain ⟨hown, -, -, hrem⟩ := (h.chan c).armed hact
  refine h.setCh (exists_of_own s c (by simp [hown])) ?_ (fun e => ?_) (fun _ => nofun) fun _ => hown
  · exact { h.chan c with armed := nofun, errStopped := fun _ => rfl, nackDone := nofun }
  · subst e
    exact { h.transfer with
      pendingFresh := fun e => ⟨(h.transfer.pendingFresh e).1, (h.transfer.pendingFresh e).2.1, rfl⟩
      doneStopped := fun _ _ => rfl
      aborted := fun hr _ => ⟨hrem, fun hw => by
        rcases (hmay.request (h.transfer.trigger hr)).2 with ⟨-, hf⟩ | ⟨hd, -⟩
        · exact hf
        · simp [hw] at hd⟩ }

/-- The master's channel has moved an element: what is asked of the transaction still holds (R148, R193, R196). -/
theorem MasterParts.transfer_moved (h : MasterParts s) (hrun : s.me.running) (hmay : SeqMayMove s s.me.ch) {d : Bool}
    {m : Master} (hphase : m.phase = s.me.phase) (hsame : SameTransaction s.me m)
    (hcount : d = false → bytesHeld m + (countedChan (s.ch s.me.ch)).rem.toNat ≤ s.me.len.toNat) :
    TransferOk d m (countedChan (s.ch s.me.ch)) := by
  have hdata : m.phase = .data := hphase.trans (hmay.request (h.transfer.trigger hrun)).1
  exact {
    busy := fun _ => hsame.len ▸ h.transfer.busy hrun.1
    pendingFresh := by simp [hdata]
    counted := fun hd _ => hsame.len ▸ hcount hd
    doneStopped := by simp [hdata]
    trigger := fun _ => h.transfer.trigger hrun
    aborted := fun _ he => by
      have herr : (s.ch s.me.ch).err = .none := hmay.2.2.2.2.1
      simp [countedChan, herr] at he }

/-- A move keeps the invariant, whatever row it follows (R148, R366). -/
theorem moveElement_masterParts (h : MasterParts s) (hmay : SeqMayMove s c)
    (hrow : rowAborts s c (s.readRow (s.rowAddr c)) = false) : MasterParts (moveElement c (s.readRow (s.rowAddr c)) s) := by
  have hm := moveElement_moved c (s.readRow (s.rowAddr c)) s
  generalize moveElement c (s.readRow (s.rowAddr c)) s = t at hm ⊢
  obtain ⟨b, hme⟩ := hm.me
  obtain ⟨v, hmem⟩ := hm.mem
  obtain ⟨q, hhaz⟩ := hm.haz
  have hphase : t.me.phase = s.me.phase := by rw [hme, moved_phase]
  have hsame : SameTransaction s.me t.me := hme ▸ moved_same _ _ b _
  obtain ⟨-, -, -, hact, herr, hreq⟩ := id hmay
  obtain ⟨hown, hen, henabled, -⟩ := (h.chan c).armed hact
  have hself : t.ch c = countedChan (s.ch c) :=
    (ch_congr (s := s.setCh c (countedChan (s.ch c))) hm.chans c).trans
      (ch_setCh_same s c _ (exists_of_own s c (by simp [hown])))
  have hother : OtherChansKept s t c := fun d hd =>
    (ch_congr (s := s.setCh c (countedChan (s.ch c))) hm.chans d).trans (ch_setCh_other s c d _ hd)
  have hclean : t.haz.descWrite = false → s.haz.descWrite = false := fun hd => by
    rw [hhaz] at hd
    exact (Bool.or_eq_false_iff.1 hd).1
  have hread : t.haz.descWrite = false → ∀ d : ChIdx, d.toNat < s.nCh →
      t.readRow (s.rowAddr d) = s.readRow (s.rowAddr d) := fun hd d hdc => by
    rw [hhaz] at hd
    cases hp : (rowDest s.par (s.readRow (s.rowAddr c)) (s.ch c).rem).port with
    | true => exact readRow_congr (by rw [hmem, hp, if_pos rfl]) _
    | false =>
      refine readRow_of_not_hit (fun x hx => ?_) hen (by simpa [hp] using (Bool.or_eq_false_iff.1 hd).2) hdc
      rw [State.byteAt, hmem, hp, if_neg nofun, read_writeLE_other _ _ _ _ _ hx, State.byteAt]
  refine h.writeChan hm.par hm.dcm hm.bus hphase hsame hother ?_ ?_ ?_ ?_
  · rw [hself]
    exact { h.chan c with
      armed := fun ha => ⟨hown, hen, henabled, (countedChan_active ha).2⟩
      errStopped := fun he => absurd herr he }
  · rw [hsame.ch]
    by_cases e : c = s.me.ch
    · subst e
      rw [hself]
      by_cases hrun : s.me.running
      · refine h.transfer_moved hrun hmay hphase hsame fun hd => ?_
        rw [hme]
        exact h.counted_moved hrun hmay (hclean hd) b
      · refine .of_idle (hphase.trans (by_contra fun hidle => hrun ⟨hidle, fun hp => ?_⟩))
        simp [(h.transfer.pendingFresh hp).2.2] at hact
    · have hnoport := fun hp => e ((hreq.resolve_left (by rw [(rowAborts_false hrow).1 hp]; nofun)).2.1)
      obtain ⟨hs, hd⟩ := not_or.1 hnoport
      have hme' : t.me = s.me := by
        rw [hme, Bool.eq_false_iff.2 hs, Bool.eq_false_iff.2 hd]
        rfl
      rw [hother _ (Ne.symm e), hme']
      exact h.transfer.mono hclean
  · refine h.row.of_readRow hm.par hphase hsame hclean (fun _ ha => ?_) fun hd hrun => ?_
    · by_cases e : c = s.me.ch
      · exact e ▸ hact
      · exact hother _ (Ne.symm e) ▸ ha
    · rw [rowAddr_congr hm.dcm]
      exact hread hd _ (exists_of_own s _ (by rw [(h.transfer.busy hrun.1).1]; nofun))
  · rw [hm.fg]
    refine ⟨fun d hd => ?_, h.hold.mHold⟩
    by_cases e : d = c
    · subst e
      exact ⟨hself.symm ▸ hown, (h.hold.chHold d hd).2⟩
    · exact hother d e ▸ h.hold.chHold d hd

theorem seqMove_masterParts (h : MasterParts s) (hm : SeqMove c s t) : MasterParts t := by
  cases hm with
  | waits => exact h
  | aborts hmay => exact abort_masterParts h hmay
  | moves hmay hrow => exact moveElement_masterParts h hmay hrow

/-! ### The moves of the outside parties -/

/-- A store of the host's keeps the invariant: one that hits the table is noted (R366). -/
theorem hostStore_masterParts (h : MasterParts s) (a n : Nat) (al : Bool) (v : Word) :
    MasterParts ((s.noteHaz (s.hitsTable a n) al).memWrite a n v) where
  chan := h.chan
  link := h.link
  transfer := h.transfer.mono fun hd => (Bool.or_eq_false_iff.1 hd).1
  buffer := h.buffer
  row := by
    refine h.row.of_readRow rfl rfl (.refl _) (fun hd => (Bool.or_eq_false_iff.1 hd).1) (fun _ => id) fun hd hrun => ?_
    have hown := (h.transfer.busy hrun.1).1
    exact readRow_of_not_hit (memWrite_keeps (s.noteHaz _ al) a n v) ((h.chan s.me.ch).taken (by simp [hown]))
      (Bool.or_eq_false_iff.1 hd).2 (exists_of_own s _ (by simp [hown]))
  hold := h.hold

theorem outsideMove_masterParts (h : MasterParts s) {o : OutsideStep} (hm : OutsideMove s o t) : MasterParts t := by
  cases hm with
  | inputs => exact h.of_eq ⟨rfl, rfl, rfl, rfl, rfl, rfl⟩ rfl rfl
  | load a w al => exact h.of_eq ⟨rfl, rfl, rfl, rfl, Bool.or_false _, rfl⟩ rfl rfl
  | store a w v al _ => exact hostStore_masterParts h _ _ al v
  | append x p => cases x <;> exact h.of_eq ⟨rfl, rfl, rfl, rfl, rfl, rfl⟩ rfl rfl

end

end Sys2Proof.Machine
end

section
/-! PROOFS. The host's operations keep the invariant of the channels and the master (R141 to R146, R191 to R194, R204), as long as
INT issues S.SERVICE alone (R338). -/

namespace Sys2Proof.Machine

section
variable {s t u : State}

/-! ### Holds -/

/-- FG is blocked in something else, or in nothing. -/
theorem MasterParts.setHold (h : MasterParts s) {k : Option Hold} (hk : HoldOk k s.me (fun c => (s.ch c).own)) :
    MasterParts (s.setHold .fg k) :=
  { h with hold := hk }

theorem HoldOk.none (m : Master) (own : ChIdx → Own) : HoldOk none m own := ⟨nofun, nofun⟩

/-- The WAIT of FG that is left blocked has found something to wait for (R146, R204). -/
theorem blocks_masterParts (h : MasterParts s) {i : Instr} {k : Hold} (hb : Blocks s i k) :
    MasterParts (s.setHold .fg (some k)) := by
  refine h.setHold ?_
  cases hb with
  | chWait c hx hm => exact ⟨fun d e => by cases e; exact ⟨hx, hm⟩, nofun⟩
  | mWait hidle hpend => exact ⟨nofun, fun d e => by cases e; exact ⟨rfl, hidle, hpend⟩⟩

/-! ### The operations of the Descriptor/Channel Manager -/

/-- With the engine disabled there is no transaction (R42 item 3). -/
theorem MasterParts.idle_of_disabled (h : MasterParts s) (hoff : s.dcm.en = false) : s.me.phase = .idle := by
  by_contra hidle
  have := (h.chan s.me.ch).taken (by simp [(h.transfer.busy hidle).1])
  simp [hoff] at this

/-- A channel that FG has not given away is not the master's (R42 item 3). -/
theorem MasterParts.idle_or_other (h : MasterParts s) {c : ChIdx} (hown : (s.ch c).own ≠ .xfer) :
    s.me.phase = .idle ∨ c ≠ s.me.ch :=
  or_iff_not_imp_left.2 fun hidle e => hown (e ▸ (h.transfer.busy hidle).1)

theorem enabled_masterParts (h : MasterParts s) (hoff : s.dcm.en = false) (base : Word) :
    MasterParts (s.setDcm ⟨true, base⟩) where
  chan c := { h.chan c with
    armed := fun ha => by simpa [hoff] using ((h.chan c).armed ha).2.1
    taken := fun _ => rfl }
  link := h.link
  transfer := h.transfer
  buffer := h.buffer
  row _ hr := absurd (h.idle_of_disabled hoff) hr.1
  hold := h.hold

theorem taken_masterParts (h : MasterParts s) {c : ChIdx} (hen : s.dcm.en = true) (hc : c.toNat < s.nCh)
    (hfree : (s.ch c).own = .free) : MasterParts (s.setCh c { s.ch c with own := .held }) := by
  have hx : ¬ (s.ch c).active = true := fun ha => by simpa [hfree] using ((h.chan c).armed ha).1
  refine h.setCh hc ?_ (fun e => ?_) (fun _ => id) fun e => ?_
  · exact { h.chan c with armed := fun ha => absurd ha hx, taken := fun _ => hen, masterChannel := nofun }
  · exact .of_idle ((h.idle_or_other (by simp [hfree])).resolve_right (not_not.2 e))
  · simpa [hfree] using (h.hold.chHold c e).1

/-- What `ValidTransfer` says of the count and the trigger of a CH.ARM (R143). -/
theorem validTransfer_count_trig {p : Params} {x : Transfer} (hv : validTransfer p x false = true) :
    1 ≤ x.count.toNat ∧ x.count.toNat ≤ countMax ∧ x.trig = 0 := by
  simp only [validTransfer, Bool.and_eq_true, decide_eq_true_eq, Bool.false_or] at hv
  obtain ⟨⟨⟨⟨⟨⟨-, h1, h2⟩, h3⟩, -⟩, -⟩, -⟩, -⟩ := hv
  exact ⟨h1, h2, h3⟩

theorem armed_masterParts (h : MasterParts s) {c : ChIdx} {x : Transfer} (hen : s.dcm.en = true) (hc : c.toNat < s.nCh)
    (hheld : (s.ch c).own = .held) (hvalid : validTransfer s.par x false = true) :
    MasterParts (noteArm c ((s.writeRow (s.rowAddr c) (rowOf x)).setCh c (armedChan x))) := by
  obtain ⟨h1, h2, htrig⟩ := validTransfer_count_trig hvalid
  have hrem : (armedChan x).rem.toNat = x.count.toNat := by
    simp only [countMax] at h2
    simp [armedChan]
    omega
  have hother : OtherChansKept s (noteArm c ((s.writeRow (s.rowAddr c) (rowOf x)).setCh c (armedChan x))) c := fun d hd =>
    (ch_congr (by simp) d).trans (ch_setCh_other s c d (armedChan x) hd)
  have hself : (noteArm c ((s.writeRow (s.rowAddr c) (rowOf x)).setCh c (armedChan x))).ch c = armedChan x :=
    (ch_congr (by simp) c).trans (ch_setCh_same s c (armedChan x) hc)
  have hm := h.idle_or_other (c := c) (by simp [hheld])
  generalize hu : noteArm c ((s.writeRow (s.rowAddr c) (rowOf x)).setCh c (armedChan x)) = u at *
  have hme : u.me = s.me := by simp [← hu]
  have hdirty : u.haz.descWrite = s.haz.descWrite := by simp [← hu]
  refine h.writeChan (c := c) (by simp [← hu]) (by simp [← hu]) (by simp [← hu]) (by rw [hme]) (hme ▸ .refl _) hother ?_ ?_ ?_ ?_
  · rw [hself]
    exact {
      armed := fun _ => ⟨rfl, hen, rfl, hrem ▸ h1⟩
      taken := fun _ => hen
      masterChannel := by simp [armedChan, htrig, trigOfCode]
      errStopped := fun he => absurd rfl he
      nackDone := nofun }
  · rw [hme, hdirty]
    rcases hm with hidle | hne
    · exact .of_idle hidle
    · exact hother _ (Ne.symm hne) ▸ h.transfer
  · refine h.row.of_readRow (by simp [← hu]) (by rw [hme]) (hme ▸ .refl _) (by simp [hdirty]) (fun hr ha => ?_) fun _ hr => ?_
    · exact hother _ (Ne.symm (hm.resolve_left hr.1)) ▸ ha
    · rw [rowAddr_congr (by simp [← hu] : u.dcm = s.dcm),
        readRow_congr (by simp [← hu] : u.mem = (s.writeRow (s.rowAddr c) (rowOf x)).mem)]
      exact readRow_writeRow_other s (Ne.symm (hm.resolve_left hr.1)) _
  · rw [show u.fg = s.fg by simp [← hu]]
    refine ⟨fun d hd => ?_, h.hold.mHold⟩
    by_cases e : d = c
    · subst e
      exact ⟨hself.symm ▸ rfl, (h.hold.chHold d hd).2⟩
    · exact hother d e ▸ h.hold.chHold d hd

/-- A released channel is HELD, stopped and without an error (R146, R204). -/
theorem releasedChan_ok {en : Bool} {m m' : Master} {c : ChIdx} {x : Chan} (h : ChanOk en m c x) (hown : x.own = .xfer) :
    ChanOk en m' c (releasedChan x) where
  armed := nofun
  taken _ := h.taken (by simp [hown])
  masterChannel := nofun
  errStopped _ := rfl
  nackDone := nofun

theorem chWaited_masterParts (h : MasterParts s) {c : ChIdx} (hc : c.toNat < s.nCh) (hxfer : (s.ch c).own = .xfer)
    (hm : s.me.phase = .idle ∨ s.me.ch ≠ c) : MasterParts ((s.setHold .fg none).setCh c (releasedChan (s.ch c))) := by
  refine (h.setHold (.none _ _)).setCh hc (releasedChan_ok (h.chan c) hxfer) (fun e => ?_) (fun _ => nofun) nofun
  exact .of_idle (hm.resolve_right fun hne => hne e.symm)

/-! ### The operations of the Master Engine -/

/-- A master that goes from one phase off the bus to another (R42 item 8). -/
theorem LinkOk.leave {m m' : Master} {b : Bus} (h : LinkOk m b) (ha : m.phase ≠ .addr) (hd : m.phase ≠ .data)
    (ha' : m'.phase ≠ .addr) (hd' : m'.phase ≠ .data) : LinkOk m' b := by
  refine .off ha' hd' (fun hi => ?_) h.busDir
  by_contra hn
  obtain ⟨hidle, hhung⟩ := not_or.1 hn
  rcases h.ownBus hi hidle hhung with ⟨e, -⟩ | ⟨e, -⟩
  · exact ha e
  · exact hd e

theorem mWaited_masterParts (h : MasterParts s) (hdone : s.me.phase = .done) :
    MasterParts (((s.setHold .fg none).setCh s.me.ch (releasedChan (s.ch s.me.ch))).setMe
      { s.me with fault := .none, full := false, phase := .idle }) := by
  have hown := (h.transfer.busy (by simp [hdone])).1
  have hc : s.me.ch.toNat < s.nCh := exists_of_own s _ (by simp [hown])
  refine ⟨fun c => ?_, ?_, .of_idle rfl, fun e => absurd rfl e, fun _ e => absurd rfl e.1, .none _ _⟩
  · by_cases e : c = s.me.ch
    · subst e
      exact (ch_setCh_same s _ _ hc).symm ▸ releasedChan_ok (h.chan _) hown
    · exact (ch_setCh_other s _ c _ e).symm ▸ { h.chan c with
        masterChannel := fun ho htr => absurd ((h.chan c).masterChannel ho htr).1 e
        nackDone := fun he => absurd ((h.chan c).nackDone he).1 e }
  · exact h.link.leave (by simp [hdone]) (by simp [hdone]) nofun nofun

/-- What the buffer check says of the length (R191). -/
theorem badMasterBuffer_len {p : Params} {ptr len : Word} (h : badMasterBuffer p ptr len = false) : len.toNat ≤ countMax := by
  simp only [badMasterBuffer, Bool.or_eq_false_iff, decide_eq_false_iff_not] at h
  omega

theorem described_masterParts (h : MasterParts s) {dir : Dir} {addr : Nat} {ptr len : Word} {c : ChIdx} (hlen : len ≠ 0)
    (hidle : s.me.phase = .idle) (hc : c.toNat < s.nCh) (hen : s.dcm.en = true) (hheld : (s.ch c).own = .held)
    (hbuf : badMasterBuffer s.par ptr len = false) :
    MasterParts ((s.setCh c (describedChan dir ptr len (s.ch c))).setMe (describedMaster dir addr ptr len c s.me)) := by
  have hmax := badMasterBuffer_len hbuf
  have hpos : 1 ≤ len.toNat := Nat.pos_of_ne_zero fun e => hlen (BitVec.eq_of_toNat_eq e)
  have hsame := ch_setCh_same s c (describedChan dir ptr len (s.ch c)) hc
  have hother := fun d hd => ch_setCh_other s c d (describedChan dir ptr len (s.ch c)) hd
  have hlen11 : (len.setWidth 11 : Count).toNat = len.toNat := by
    simp only [countMax] at hmax
    simp
    omega
  have hx : (describedChan dir ptr len (s.ch c)).active = (s.ch c).active ∧
      (describedChan dir ptr len (s.ch c)).err = (s.ch c).err ∧ (describedChan dir ptr len (s.ch c)).own = .xfer := by
    cases dir <;> exact ⟨rfl, rfl, rfl⟩
  have hstopped : (s.ch c).active = false := by
    by_contra ha
    simpa [hheld] using ((h.chan c).armed (by simpa using ha)).1
  have hnack : ∀ d, (s.ch d).err ≠ .periphNack := fun d he => by simpa [hidle] using ((h.chan d).nackDone he).2
  refine ⟨fun d => ?_, h.link.leave (by simp [hidle]) (by simp [hidle]) nofun nofun, ?_, fun _ => ?_, ?_, ?_⟩
  · by_cases e : d = c
    · subst e
      exact hsame.symm ▸ {
        armed := fun ha => by rw [hx.1, hstopped] at ha; cases ha
        taken := fun _ => hen
        masterChannel := fun _ _ => ⟨rfl, nofun⟩
        errStopped := fun _ => hx.1.trans hstopped
        nackDone := fun he => absurd (hx.2.1.symm.trans he) (hnack d) }
    · exact (hother d e).symm ▸ { h.chan d with
        masterChannel := fun ho htr => absurd hidle ((h.chan d).masterChannel ho htr).2
        nackDone := fun he => absurd he (hnack d) }
  · refine hsame.symm ▸ {
      busy := fun _ => ⟨hx.2.2, hlen11.symm ▸ hpos, hlen11.symm ▸ hmax⟩
      pendingFresh := fun _ => ⟨rfl, rfl, hx.1.trans hstopped⟩
      counted := fun _ hr => absurd rfl hr.2
      doneStopped := nofun
      trigger := fun hr => absurd rfl hr.2
      aborted := fun hr => absurd rfl hr.2 }
  · show badMasterBuffer s.par ptr (BitVec.ofNat 32 (len.setWidth 11 : Count).toNat) = false
    rw [hlen11, BitVec.ofNat_toNat, BitVec.setWidth_eq]
    exact hbuf
  · exact fun _ hr => absurd rfl hr.2
  · refine ⟨fun d hd => ?_, fun d hd => absurd hidle (h.hold.mHold d hd).2.1⟩
    have hown := (h.hold.chHold d hd).1
    have e : d ≠ c := fun e => by simp [e, hheld] at hown
    exact ⟨(congrArg Chan.own (hother d e)).trans hown, .inr (Ne.symm e)⟩

theorem started_masterParts (h : MasterParts s) (hm : Memory.sorted s.mem) (hpend : s.me.phase = .pending) :
    MasterParts ((noteArm s.me.ch ((s.writeRow (s.rowAddr s.me.ch) (rowOf (masterTransfer s.par s.me))).setCh s.me.ch
      (startedChan s.me.len (s.ch s.me.ch)))).setMe { s.me with phase := .start }) := by
  obtain ⟨hown, hpos, hmax⟩ := h.transfer.busy (by simp [hpend])
  obtain ⟨hk, hfull, -⟩ := h.transfer.pendingFresh hpend
  have hen := (h.chan s.me.ch).taken (by simp [hown])
  have hsame : ((noteArm s.me.ch ((s.writeRow (s.rowAddr s.me.ch) (rowOf (masterTransfer s.par s.me))).setCh s.me.ch
      (startedChan s.me.len (s.ch s.me.ch)))).setMe { s.me with phase := .start }).ch s.me.ch =
      startedChan s.me.len (s.ch s.me.ch) :=
    (ch_congr (by simp) _).trans (ch_setCh_same s _ _ (exists_of_own s _ (by simp [hown])))
  have hother : OtherChansKept s ((noteArm s.me.ch ((s.writeRow (s.rowAddr s.me.ch) (rowOf (masterTransfer s.par s.me))).setCh
      s.me.ch (startedChan s.me.len (s.ch s.me.ch)))).setMe { s.me with phase := .start }) s.me.ch := fun d hd =>
    (ch_congr (by simp) d).trans (ch_setCh_other s _ d (startedChan s.me.len (s.ch s.me.ch)) hd)
  generalize hu : (noteArm s.me.ch ((s.writeRow (s.rowAddr s.me.ch) (rowOf (masterTransfer s.par s.me))).setCh s.me.ch
    (startedChan s.me.len (s.ch s.me.ch)))).setMe { s.me with phase := .start } = u at *
  have hme : u.me = { s.me with phase := .start } := by rw [← hu, setMe_me]
  have hst : SameTransaction s.me u.me := hme ▸ ⟨rfl, rfl, rfl, rfl⟩
  refine ⟨fun d => ?_, ?_, ?_, fun _ => ?_, fun _ _ _ => ?_, ?_⟩
  · rw [show u.dcm = s.dcm by simp [← hu], hme]
    by_cases e : d = s.me.ch
    · subst e
      exact hsame.symm ▸ {
        armed := fun _ => ⟨hown, hen, rfl, hpos⟩
        taken := fun _ => hen
        masterChannel := fun _ _ => ⟨rfl, nofun⟩
        errStopped := fun he => absurd rfl he
        nackDone := nofun }
    · exact (hother d e).symm ▸ { h.chan d with
        masterChannel := fun ho htr => absurd ((h.chan d).masterChannel ho htr).1 e
        nackDone := fun he => absurd ((h.chan d).nackDone he).1 e }
  · rw [show u.bus = s.bus by simp [← hu], hme]
    exact h.link.leave (by simp [hpend]) (by simp [hpend]) nofun nofun
  · rw [hst.ch, hsame, hme]
    exact {
      busy := fun _ => ⟨hown, hpos, hmax⟩
      pendingFresh := nofun
      counted := fun _ _ => by simp [bytesHeld, hk, hfull, startedChan]
      doneStopped := nofun
      trigger := fun _ => rfl
      aborted := nofun }
  · rw [show u.par = s.par by simp [← hu], hst.ptr, hst.len]
    exact h.buffer (by simp [hpend])
  · rw [hst.ch, rowAddr_congr (by simp [← hu] : u.dcm = s.dcm), show u.par = s.par by simp [← hu], hst.masterTransfer,
      readRow_congr (by simp [← hu] : u.mem = (s.writeRow (s.rowAddr s.me.ch) (rowOf (masterTransfer s.par s.me))).mem)]
    exact readRow_writeRow hm _ _
  · rw [show u.fg = s.fg by simp [← hu]]
    refine ⟨fun d hd => ?_, fun d hd => absurd hpend (h.hold.mHold d hd).2.2⟩
    obtain ⟨ho, hm⟩ := h.hold.chHold d hd
    have e : s.me.ch ≠ d := hm.resolve_left (by simp [hpend])
    exact ⟨(congrArg Chan.own (hother d (Ne.symm e))).trans ho, .inr (hst.ch.symm ▸ e)⟩

/-! ### Every operation and every turn -/

/-- An operation of FG, or S.SERVICE in either context, keeps the invariant. -/
theorem opEffect_masterParts (h : MasterParts s) (hm : Memory.sorted s.mem) {i : Instr} {w : Word} (he : OpEffect s i w u)
    (hcur : i ≠ .sService → s.cur = .fg) : MasterParts u := by
  cases he with
  | unchanged => exact h
  | enabled base hoff _ _ _ => exact enabled_masterParts h hoff base
  | taken c hen hc hfree => exact taken_masterParts h hen hc hfree
  | armed c x hen hc hheld hvalid _ => exact armed_masterParts h hen hc hheld hvalid
  | chWaited c hc hxfer hidle _ =>
    rw [hcur nofun]
    exact chWaited_masterParts h hc hxfer hidle
  | described dir addr ptr len c _ hlen hidle hc hen hheld hbuf => exact described_masterParts h hlen hidle hc hen hheld hbuf
  | started hpend _ => exact started_masterParts h hm hpend
  | mWaited _ _ hl =>
    rw [hcur nofun]
    exact mWaited_masterParts h ((holdLifted_mWait_iff s _).1 hl).1
  | slaveEnabled => exact h.setSl _
  | serviced w u _ _ hc => exact serviceCase_masterParts h hc

theorem exec_masterParts (h : MasterParts s) (hm : Memory.sorted s.mem) {i : Instr} (he : exec i s = .next t)
    (hcur : i ≠ .sService → s.cur = .fg) : MasterParts t := by
  obtain ⟨w, u, hu, rfl⟩ | ⟨k, hb, rfl⟩ := exec_outcome he
  · exact (opEffect_masterParts h hm hu hcur).record _
  · rw [hcur (by cases hb <;> nofun)]
    exact blocks_masterParts h hb

/-- A turn of FG, the return of its WAIT among them (R146, R204). -/
theorem hostMove_fg_masterParts (h : MasterParts s) (hm : Memory.sorted s.mem) (hmv : HostMove .fg s t) : MasterParts t := by
  cases hmv with
  | passes => exact h
  | staysBlocked => exact h.of_eq ⟨rfl, rfl, rfl, rfl, rfl, rfl⟩ rfl rfl
  | chWaitEnds c hk _ =>
    obtain ⟨hown, hidle⟩ := h.hold.chHold c hk
    exact (chWaited_masterParts h (exists_of_own s c (by simp [hown])) hown hidle).of_eq ⟨rfl, rfl, rfl, rfl, rfl, rfl⟩ rfl rfl
  | mWaitEnds c hk hl =>
    obtain ⟨rfl, -⟩ := h.hold.mHold c hk
    exact (mWaited_masterParts h ((holdLifted_mWait_iff s _).1 hl).1).of_eq ⟨rfl, rfl, rfl, rfl, rfl, rfl⟩ rfl rfl
  | rejects p rest w hp => exact (h.setHold (.none _ _)).of_eq ⟨rfl, rfl, rfl, rfl, rfl, rfl⟩ rfl rfl
  | executes p rest i t hp _ he =>
    have h' : MasterParts ((s.setCtx .fg ⟨rest, none⟩).setCur .fg) :=
      (h.setHold (.none _ _)).of_eq ⟨rfl, rfl, rfl, rfl, rfl, rfl⟩ rfl rfl
    exact exec_masterParts h' hm he fun _ => rfl

/-- While INT issues S.SERVICE alone it is never in a WAIT (R338). -/
theorem hostMove_int_masterParts (h : MasterParts s) (hm : Memory.sorted s.mem) (hint : IntServesOnly s)
    (hmv : HostMove .int s t) : MasterParts t := by
  have hfree : s.int.hold = none := hint.1
  cases hmv with
  | passes => exact h
  | staysBlocked => exact h.of_eq ⟨rfl, rfl, rfl, rfl, rfl, rfl⟩ rfl rfl
  | chWaitEnds c hk _ => rw [State.ctx, hfree] at hk; cases hk
  | mWaitEnds c hk _ => rw [State.ctx, hfree] at hk; cases hk
  | rejects p rest w hp => exact h.of_eq ⟨rfl, rfl, rfl, rfl, rfl, rfl⟩ rfl rfl
  | executes p rest i t hp hd he =>
    have h' : MasterParts ((s.setCtx .int ⟨rest, none⟩).setCur .int) := h.of_eq ⟨rfl, rfl, rfl, rfl, rfl, rfl⟩ rfl rfl
    refine exec_masterParts h' hm he fun hi => ?_
    have hi' := hint.2 p (by rw [show s.int = _ from hp]; simp)
    simp [hd, hi] at hi'

theorem resetEngine_ch (s : State) (c : ChIdx) : (resetEngine s).ch c = Chan.reset := by
  simp only [resetEngine, State.ch, List.getD_eq_getElem?_getD, List.getElem?_map]
  cases s.chans[c.toNat]? <;> rfl

theorem resetEngine_masterParts (s : State) : MasterParts (resetEngine s) where
  chan c := (resetEngine_ch s c).symm ▸ ⟨nofun, fun e => absurd rfl e, nofun, fun e => absurd rfl e, nofun⟩
  link := .off nofun nofun (fun _ => .inl rfl) ⟨nofun, nofun⟩
  transfer := .of_idle rfl
  buffer e := absurd rfl e
  row _ hr := absurd rfl hr.1
  hold := .none _ _

theorem takeTurn_masterParts (h : MasterParts s) (hm : Memory.sorted s.mem) (hint : IntServesOnly s) {turn : Turn}
    (ht : takeTurn turn s = .next t) : MasterParts t := by
  cases turn with
  | host x =>
    cases x with
    | fg => exact hostMove_fg_masterParts h hm (hostTurn_move ht)
    | int => exact hostMove_int_masterParts h hm hint (hostTurn_move ht)
  | seq c => cases ht; exact seqMove_masterParts h (seqStep_move c s)
  | mfu m => cases ht; exact mfuMove_masterParts h (mfuStep_move m s)
  | bus => cases ht; exact busMove_masterParts h (busStep_move s)
  | env e => cases ht; exact envMove_masterParts h (envStep_move e s)
  | reset => cases ht; exact resetEngine_masterParts s
  | outside o => exact outsideMove_masterParts h (outsideStep_move ht)

end

end Sys2Proof.Machine
end

section
/-! PROOFS. What every turn keeps: the parameters, the schedule, the number of channels, the hazards noted and the history; and the
convention that INT issues S.SERVICE alone (R7, R35, R36, R338). -/

namespace Sys2Proof.Machine

/-! ### What only grows -/

/-- Parameters, channels and schedule are as before; hazards and history have only been added to (R7, R35, R36). -/
structure Grows (s t : State) : Prop where
  par : t.par = s.par
  nCh : t.nCh = s.nCh
  sched : t.sched = s.sched
  descWrite : s.haz.descWrite = true → t.haz.descWrite = true
  bufferAlias : s.haz.bufferAlias = true → t.haz.bufferAlias = true
  trace : s.trace <+: t.trace

section
variable {s t u : State}

theorem Grows.refl (s : State) : Grows s s := ⟨rfl, rfl, rfl, id, id, List.prefix_rfl⟩

theorem Grows.trans (h : Grows s t) (h' : Grows t u) : Grows s u where
  par := h'.par.trans h.par
  nCh := h'.nCh.trans h.nCh
  sched := h'.sched.trans h.sched
  descWrite := h'.descWrite ∘ h.descWrite
  bufferAlias := h'.bufferAlias ∘ h.bufferAlias
  trace := h.trace.trans h'.trace

/-- A move that notes no hazard. -/
theorem Grows.of_haz_eq (hpar : t.par = s.par) (hn : t.nCh = s.nCh) (hsched : t.sched = s.sched) (hhaz : t.haz = s.haz)
    (htrace : s.trace <+: t.trace) : Grows s t :=
  ⟨hpar, hn, hsched, by simp [hhaz], by simp [hhaz], htrace⟩

/-! ### The bus procedures and the small operations -/

theorem grows_record (s : State) (e : Rec) : Grows s (s.record e) :=
  .of_haz_eq rfl rfl rfl rfl (List.prefix_append ..)

theorem grows_setSl (s : State) (x : Slave) : Grows s (s.setSl x) := .of_haz_eq rfl rfl rfl rfl List.prefix_rfl

theorem grows_nextDraw (s : State) : Grows s s.nextDraw := .of_haz_eq rfl rfl rfl rfl List.prefix_rfl

theorem grows_setMe (s : State) (m : Master) : Grows s (s.setMe m) := .of_haz_eq rfl rfl rfl rfl List.prefix_rfl

theorem grows_setBus (s : State) (b : Bus) : Grows s (s.setBus b) := .of_haz_eq rfl rfl rfl rfl List.prefix_rfl

theorem grows_setCh (s : State) (c : ChIdx) (x : Chan) : Grows s (s.setCh c x) :=
  .of_haz_eq rfl (nCh_setCh s c x) rfl rfl List.prefix_rfl

theorem grows_driveAddress (s : State) (i : Initiator) (ab : Byte) (pr : Bool) : Grows s (driveAddress i ab pr s) := by
  refine .of_haz_eq ?_ (nCh_congr ?_) ?_ ?_ ?_ <;> simp [driveAddress_trace]

theorem grows_afterAddrAck (s : State) : Grows s (afterAddrAck s) := by
  refine .of_haz_eq ?_ (nCh_congr ?_) ?_ ?_ ?_ <;> simp

theorem grows_afterAddrNack (s : State) (d : Driver) : Grows s (afterAddrNack d s) :=
  (grows_record s _).trans (grows_setBus _ _)

theorem grows_driveData (s : State) (i : Initiator) (b : Byte) : Grows s (driveData i b s) := by
  refine .of_haz_eq ?_ (nCh_congr ?_) ?_ ?_ ?_ <;> simp

theorem grows_slaveAckData (s : State) : Grows s (slaveAckData s) := by
  refine .of_haz_eq ?_ (nCh_congr ?_) ?_ ?_ ?_ <;> simp

theorem grows_supplyData (s : State) (d : Driver) (b : Byte) : Grows s (supplyData d b s) := by
  refine .of_haz_eq ?_ (nCh_congr ?_) ?_ ?_ ?_
  case refine_5 =>
    rw [supplyData_trace]
    split_ifs <;> simp
  all_goals simp

theorem grows_readAck (s : State) (d : Driver) : Grows s (readAck d s) := by
  refine .of_haz_eq ?_ (nCh_congr ?_) ?_ ?_ ?_ <;> simp

theorem grows_busStop (s : State) (d : Driver) : Grows s (busStop d s) :=
  ((grows_record s _).trans (grows_setBus _ _)).trans (grows_setSl _ _)

theorem grows_masterFault (s : State) (f : MFault) : Grows s (masterFault f s) :=
  (grows_setCh s _ _).trans (grows_setMe _ _)

/-! ### The agents -/

theorem grows_seqMove {c : ChIdx} (hm : SeqMove c s t) : Grows s t := by
  cases hm with
  | waits => exact .refl s
  | aborts => exact grows_setCh s c _
  | moves _ _ =>
    have hm := moveElement_moved c (s.readRow (s.rowAddr c)) s
    generalize moveElement c (s.readRow (s.rowAddr c)) s = t at hm ⊢
    obtain ⟨q, hhaz⟩ := hm.haz
    obtain ⟨r, htrace⟩ := hm.trace
    exact ⟨hm.par, (nCh_congr (s := s.setCh c (countedChan (s.ch c))) hm.chans).trans (nCh_setCh s c _), hm.sched,
      fun h => by simp [hhaz, h], fun h => by simp [hhaz, h], htrace ▸ List.prefix_append ..⟩

theorem grows_mfuMove {m : MfuStep} (hm : MfuMove s m t) : Grows s t := by
  cases hm with
  | waits => exact .refl s
  | startWon => exact (grows_driveAddress s _ _ _).trans (grows_setMe _ _)
  | startLost => exact (grows_driveAddress s _ _ _).trans (grows_masterFault _ _)
  | wdriveWon => exact (grows_setMe s _).trans (grows_driveData _ _ _)
  | wdriveLost => exact ((grows_setMe s _).trans (grows_driveData _ _ _)).trans (grows_masterFault _ _)
  | wdone => exact (grows_busStop s _).trans (grows_setMe _ _)
  | rrespondAck => exact grows_readAck s _
  | rrespondLast => exact ((grows_record s _).trans (grows_busStop _ _)).trans (grows_setMe _ _)
  | nack =>
    exact (((grows_setCh s _ _).trans (grows_setCh _ _ _)).trans (grows_busStop _ _)).trans (grows_setMe _ _)
  | dabort l =>
    have hl : Grows s { s with trace := s.trace ++ l } := .of_haz_eq rfl rfl rfl rfl (List.prefix_append ..)
    exact (hl.trans (grows_busStop _ _)).trans (grows_setMe _ _)

theorem grows_busMove (hm : BusMove s t) : Grows s t := by
  cases hm with
  | waits => exact .refl s
  | nobody => exact grows_afterAddrNack s _

theorem grows_envTimeout (s : State) : Grows s (envTimeout s) := by
  simp only [envTimeout]
  split_ifs
  · exact ((grows_record s _).trans (grows_setBus _ _)).trans (grows_masterFault _ _)
  · exact (grows_record s _).trans (grows_masterFault _ _)

theorem grows_envMove {e : EnvStep} (hm : EnvMove s e t) : Grows s t := by
  cases hm with
  | waits => exact .refl s
  | addrAck => exact (grows_record s _).trans (grows_afterAddrAck _)
  | addrNack => exact grows_afterAddrNack s _
  | wdata ack => cases ack <;> exact (grows_record s _).trans (grows_setBus _ _)
  | rdata b => exact grows_supplyData s _ b
  | masterStart => exact grows_driveAddress s _ _ _
  | masterData b => exact grows_driveData s _ b
  | masterAck => exact grows_readAck s _
  | masterNack => exact (grows_record s _).trans (grows_setBus _ _)
  | masterStop => exact grows_busStop s _
  | masterRestart => exact ((grows_setBus s _).trans (grows_setSl _ _)).trans (grows_driveAddress _ _ _ _)
  | timeout => exact grows_envTimeout s
  | slaveFault => exact (grows_record s _).trans (grows_setSl _ _)

/-! ### The host and the outside parties -/

theorem grows_setHold (s : State) (x : Ctx) (k : Option Hold) : Grows s (s.setHold x k) := by
  refine .of_haz_eq ?_ (nCh_congr ?_) ?_ ?_ ?_ <;> simp

theorem grows_serviceCase (hc : ServiceCase s u) : Grows s u := by
  cases hc with
  | addrMatch => exact ((grows_setSl s _).trans (grows_record _ _)).trans (grows_afterAddrAck _)
  | rxReady => exact ((grows_setSl s _).trans (grows_record _ _)).trans (grows_slaveAckData _)
  | txReady => exact (grows_setSl s _).trans (grows_supplyData _ _ _)
  | underrun =>
    unfold serviceUnderrun
    split
    · exact grows_setSl s _
    · exact ((grows_setSl s _).trans (grows_nextDraw _)).trans (grows_supplyData _ _ _)
  | fault => exact grows_setSl s _

/-- Building a row and arming its channel (R144, R367). -/
theorem grows_arm (s : State) (a : Nat) (r : Row) (c : ChIdx) (x : Chan) :
    Grows s (noteArm c ((s.writeRow a r).setCh c x)) where
  par := by simp
  nCh := by simp [State.nCh]
  sched := by simp
  descWrite := by simp
  bufferAlias h := by simp [h]
  trace := by simp

theorem grows_opEffect {i : Instr} {w : Word} (he : OpEffect s i w u) : Grows s u := by
  cases he with
  | unchanged => exact .refl s
  | enabled => exact .of_haz_eq rfl rfl rfl rfl List.prefix_rfl
  | taken => exact grows_setCh s _ _
  | armed => exact grows_arm s _ _ _ _
  | chWaited => exact (grows_setHold s _ _).trans (grows_setCh _ _ _)
  | described => exact (grows_setCh s _ _).trans (grows_setMe _ _)
  | started => exact (grows_arm s _ _ _ _).trans (grows_setMe _ _)
  | mWaited => exact ((grows_setHold s _ _).trans (grows_setCh _ _ _)).trans (grows_setMe _ _)
  | slaveEnabled => exact grows_setSl s _
  | serviced w u _ _ hc => exact grows_serviceCase hc

theorem grows_exec {i : Instr} (h : exec i s = .next t) : Grows s t := by
  obtain ⟨w, u, hu, rfl⟩ | ⟨k, -, rfl⟩ := exec_outcome h
  · exact (grows_opEffect hu).trans (grows_record _ _)
  · exact grows_setHold s _ _

theorem grows_issuing (s : State) (x : Ctx) (k : HostCtx) : Grows s ((s.setCtx x k).setCur x) := by
  refine .of_haz_eq ?_ (nCh_congr ?_) ?_ ?_ ?_ <;> simp

theorem grows_waitReturned (s : State) (x : Ctx) (i : Instr) (c : ChIdx) (me : Master) (status : Nat) :
    Grows s (s.waitReturned x i c me status) := by
  have h1 : Grows s (s.setCur x) := .of_haz_eq rfl rfl rfl rfl List.prefix_rfl
  exact (((h1.trans (grows_setHold _ _ _)).trans (grows_setCh _ _ _)).trans (grows_setMe _ _)).trans (grows_record _ _)

theorem grows_hostMove {x : Ctx} (hm : HostMove x s t) : Grows s t := by
  cases hm with
  | passes => exact .refl s
  | staysBlocked => exact .of_haz_eq rfl rfl rfl rfl List.prefix_rfl
  | chWaitEnds | mWaitEnds => exact grows_waitReturned s _ _ _ _ _
  | rejects => exact (grows_issuing s _ _).trans (grows_record _ _)
  | executes _ _ _ _ _ _ he => exact (grows_issuing s _ _).trans (grows_exec he)

theorem grows_outsideMove {o : OutsideStep} (hm : OutsideMove s o t) : Grows s t := by
  cases hm with
  | inputs => exact .of_haz_eq rfl rfl rfl rfl List.prefix_rfl
  | load => exact ⟨rfl, rfl, rfl, by simp, fun h => by simp [h], List.prefix_rfl⟩
  | store => exact ⟨rfl, rfl, rfl, fun h => by simp [h], fun h => by simp [h], List.prefix_rfl⟩
  | append => refine .of_haz_eq ?_ (nCh_congr ?_) ?_ ?_ ?_ <;> simp

theorem grows_resetEngine (s : State) : Grows s (resetEngine s) :=
  .of_haz_eq rfl (by simp [State.nCh, resetEngine]) rfl rfl List.prefix_rfl

theorem takeTurn_grows {turn : Turn} (ht : takeTurn turn s = .next t) : Grows s t := by
  cases turn with
  | host x => exact grows_hostMove (hostTurn_move ht)
  | seq c => cases ht; exact grows_seqMove (seqStep_move c s)
  | mfu m => cases ht; exact grows_mfuMove (mfuStep_move m s)
  | bus => cases ht; exact grows_busMove (busStep_move s)
  | env e => cases ht; exact grows_envMove (envStep_move e s)
  | reset => cases ht; exact grows_resetEngine s
  | outside o => exact grows_outsideMove (outsideStep_move ht)

/-! ### The convention of INT -/

theorem IntServesOnly.of_int_eq (h : IntServesOnly s) (he : t.int = s.int) : IntServesOnly t := by
  rw [IntServesOnly, he]
  exact h

/-- After a packet of INT the rest of its program is left, and INT is not blocked (R338). -/
theorem hostMove_int_servesOnly (h : IntServesOnly s) (hm : HostMove .int s t) : IntServesOnly t := by
  have hfree : s.int.hold = none := h.1
  cases hm with
  | passes => exact h
  | staysBlocked => exact h.of_int_eq rfl
  | chWaitEnds c hk _ => rw [State.ctx, hfree] at hk; cases hk
  | mWaitEnds c hk _ => rw [State.ctx, hfree] at hk; cases hk
  | rejects p rest w hp =>
    have hp : s.int = ⟨p :: rest, none⟩ := hp
    exact ⟨rfl, fun q hq => h.2 q (by rw [hp]; exact List.mem_cons_of_mem _ hq)⟩
  | executes p rest i t hp hd he =>
    have hp : s.int = ⟨p :: rest, none⟩ := hp
    obtain rfl : i = .sService := by simpa [hd] using h.2 p (by rw [hp]; exact List.mem_cons_self)
    have hint : t.int = ⟨rest, none⟩ := execSService_keeps_ctx .int _ t he
    exact ⟨by rw [hint], fun q hq => h.2 q (by rw [hint] at hq; rw [hp]; exact List.mem_cons_of_mem _ hq)⟩

theorem takeTurn_servesOnly (h : IntServesOnly s) {turn : Turn} (hturn : turn.servesOnly = true)
    (ht : takeTurn turn s = .next t) : IntServesOnly t := by
  cases turn with
  | host x =>
    cases x with
    | fg => exact h.of_int_eq (hostTurn_keeps_ctx (x := .int) (c := .fg) nofun s t ht)
    | int => exact hostMove_int_servesOnly h (hostTurn_move ht)
  | seq c => cases ht; exact h.of_int_eq (seqStep_keeps_hosts c s).2
  | mfu m => cases ht; exact h.of_int_eq (mfuStep_keeps_hosts m s).2
  | bus => cases ht; exact h.of_int_eq (busStep_keeps_hosts s).2
  | env e => cases ht; exact h.of_int_eq (envStep_keeps_hosts e s).2
  | reset => cases ht; exact ⟨rfl, h.2⟩
  | outside o =>
    cases outsideStep_move ht with
    | inputs | load | store => exact h.of_int_eq rfl
    | append x p =>
      cases x with
      | fg => exact h.of_int_eq rfl
      | int =>
        refine ⟨h.1, fun q hq => ?_⟩
        rcases List.mem_append.1 hq with hq | hq
        · exact h.2 q hq
        · rw [List.mem_singleton.1 hq]
          simpa [Turn.servesOnly] using hturn

end

end Sys2Proof.Machine

open Sys2Proof Sys2Proof.Machine

/-- Settles O58: the invariant in its parts, kept by every turn; INT's convention is kept by the packets the schedule gives. -/
theorem everyStepKeepsTheMasterInvariant : Obligations.EveryStepKeepsTheMasterInvariant := by
  intro s t hwf h hint hsched hs
  obtain rfl | ⟨turn, rest, hturns, ht⟩ := step_cases hs
  · exact ⟨h, hint, hsched⟩
  · have hturn : turn.servesOnly = true := hsched turn (by simp [hturns])
    have hp : MasterParts (s.setSched rest) := ((masterOk_iff s).1 h).of_eq ⟨rfl, rfl, rfl, rfl, rfl, rfl⟩ rfl rfl
    have hint' : IntServesOnly (s.setSched rest) := hint.of_int_eq rfl
    refine ⟨(masterOk_iff t).2 (takeTurn_masterParts hp hwf.1 hint' ht), takeTurn_servesOnly hint' hturn ht, fun q hq => ?_⟩
    rw [(takeTurn_grows ht).sched] at hq
    exact hsched q (by rw [hturns]; exact List.mem_cons_of_mem _ hq)

/-- Settles O36: every turn only adds to the hazards and the history. -/
theorem historyAndHazardsOnlyGrow : Obligations.HistoryAndHazardsOnlyGrow := by
  intro s t hs
  have hg : Grows { s with sched := t.sched } t := by
    obtain rfl | ⟨turn, rest, -, ht⟩ := step_cases hs
    · exact .refl t
    · have hg := takeTurn_grows ht
      exact ⟨hg.par, hg.nCh, rfl, hg.descWrite, hg.bufferAlias, hg.trace⟩
  obtain ⟨l, hl⟩ := hg.trace
  exact ⟨hg.descWrite, hg.bufferAlias, ⟨l, hl.symm⟩, hg.par, hg.nCh⟩

end

section
/-! PROOFS. The invariants on runs: every turn keeps the canonical form of memory, so the invariants that hold after RESET hold at
every moment after it (R42, R360, R377); and the state after reset. -/

namespace Sys2Proof.Machine

section
variable {s t u : State}

/-! ### The canonical form of memory -/

/-- What a case of S.SERVICE leaves alone: everything but the slave, the bus, the master, the history and the draws (R244 to
R249). -/
structure ServiceKept (s t : State) : Prop where
  dcm : t.dcm = s.dcm
  chans : t.chans = s.chans
  inp : t.inp = s.inp
  mem : t.mem = s.mem
  haz : t.haz = s.haz
  fg : t.fg = s.fg
  int : t.int = s.int
  cur : t.cur = s.cur

theorem serviceCase_kept (hc : ServiceCase s u) : ServiceKept s u := by
  cases hc with
  | addrMatch => constructor <;> simp [serviceAddrMatch]
  | rxReady => constructor <;> simp [serviceRxReady]
  | txReady => constructor <;> simp [serviceTxReady]
  | underrun =>
    unfold serviceUnderrun
    split <;> constructor <;> simp
  | fault => constructor <;> rfl

/-- An operation writes memory only to build its row, where memory admits it (R144). -/
theorem opEffect_mem {i : Instr} {w : Word} (he : OpEffect s i w u) :
    u.mem = s.mem ∨ ∃ c r, rowBuilt i s = some c ∧ rowAdmitted s.par (s.rowAddr c) = true ∧
      u.mem = (s.writeRow (s.rowAddr c) r).mem := by
  cases he with
  | armed c x _ _ _ _ hadm => exact .inr ⟨c, rowOf x, rfl, hadm, by simp⟩
  | started _ hadm => exact .inr ⟨s.me.ch, rowOf (masterTransfer s.par s.me), rfl, hadm, by simp⟩
  | serviced w u _ _ hc => exact .inl (serviceCase_kept hc).mem
  | _ => exact .inl (by simp)

theorem exec_wf (h : Memory.wf s.mem) {i : Instr} (he : exec i s = .next t) : Memory.wf t.mem := by
  obtain ⟨w, u, hu, rfl⟩ | ⟨k, -, rfl⟩ := exec_outcome he
  · rw [record_mem]
    obtain e | ⟨c, r, -, hadm, e⟩ := opEffect_mem hu
    · exact e ▸ h
    · exact e ▸ writeRow_wf s _ r hadm h
  · rw [setHold_mem]
    exact h

theorem hostMove_wf (h : Memory.wf s.mem) {x : Ctx} (hm : HostMove x s t) : Memory.wf t.mem := by
  cases hm with
  | passes => exact h
  | staysBlocked => exact h
  | chWaitEnds | mWaitEnds => simpa [State.waitReturned] using h
  | rejects => simpa using h
  | executes p rest i t hp hd he => exact exec_wf (by simpa using h) he

theorem seqMove_wf (h : Memory.wf s.mem) {c : ChIdx} (hm : SeqMove c s t) : Memory.wf t.mem := by
  cases hm with
  | waits => exact h
  | aborts => exact h
  | moves _ hrow =>
    obtain ⟨v, e⟩ := (moveElement_moved c (s.readRow (s.rowAddr c)) s).mem
    rw [e]
    split_ifs with hp
    · exact h
    · exact writeLE_wf _ _ _ _ (admit_inside ((rowAborts_false hrow).2 (Bool.eq_false_iff.2 hp))) h

theorem mfuMove_mem {m : MfuStep} (hm : MfuMove s m t) : t.mem = s.mem := by
  cases hm with
  | nack => rfl
  | _ => simp

theorem busMove_mem (hm : BusMove s t) : t.mem = s.mem := by
  cases hm <;> rfl

theorem envMove_mem {e : EnvStep} (hm : EnvMove s e t) : t.mem = s.mem := by
  cases hm with
  | wdata ack => cases ack <;> rfl
  | masterRestart => simp [envXmRestart]
  | timeout =>
    simp only [envTimeout]
    split_ifs <;> simp
  | slaveFault => rfl
  | _ => simp

theorem outsideMove_wf (h : Memory.wf s.mem) {o : OutsideStep} (hm : OutsideMove s o t) : Memory.wf t.mem := by
  cases hm with
  | store a w v al hadm => exact writeLE_wf _ _ _ _ (admit_inside hadm) h
  | inputs | load => exact h
  | append => simpa using h

/-- Every turn keeps the canonical form of memory (R72, R73). -/
theorem takeTurn_wf (h : Memory.wf s.mem) {turn : Turn} (ht : takeTurn turn s = .next t) : Memory.wf t.mem := by
  cases turn with
  | host x => exact hostMove_wf h (hostTurn_move ht)
  | seq c => cases ht; exact seqMove_wf h (seqStep_move c s)
  | mfu m => cases ht; exact mfuMove_mem (mfuStep_move m s) ▸ h
  | bus => cases ht; exact busMove_mem (busStep_move s) ▸ h
  | env e => cases ht; exact envMove_mem (envStep_move e s) ▸ h
  | reset => cases ht; exact h
  | outside o => exact outsideMove_wf h (outsideStep_move ht)

/-! ### Runs -/

/-- All that a run from RESET keeps (R42, R338). -/
structure RunInvariant (s : State) : Prop where
  wf : Memory.wf s.mem
  master : MasterParts s
  slave : SlaveBusOk s
  int : IntServesOnly s

theorem takeTurn_runInvariant (h : RunInvariant s) {turn : Turn} (hturn : turn.servesOnly = true)
    (ht : takeTurn turn s = .next t) : RunInvariant t where
  wf := takeTurn_wf h.wf ht
  master := takeTurn_masterParts h.master h.wf.1 h.int ht
  slave := takeTurn_slaveBusOk h.slave ht
  int := takeTurn_servesOnly h.int hturn ht

theorem resetEngine_runInvariant (hwf : Memory.wf s.mem)
    (hint : ∀ p ∈ s.int.prog, decode p = none ∨ decode p = some .sService) : RunInvariant (resetEngine s) :=
  ⟨hwf, resetEngine_masterParts s, resetEngine_slaveBusOk s, rfl, hint⟩

/-- What holds after RESET and is kept by every turn holds on the run. -/
theorem run_invariant {turns : Nat → Turn} {states : Nat → State} (hrun : IsRunFromReset turns states)
    (hwf : Memory.wf (states 0).mem) (hint : ∀ p ∈ (states 0).int.prog, decode p = none ∨ decode p = some .sService)
    (hturns : ∀ n, (turns n).servesOnly = true) (n : Nat) : RunInvariant (states n) := by
  obtain ⟨hstep, s0, hreset⟩ := hrun
  induction n with
  | zero =>
    have e : resetEngine s0 = states 0 := by simpa [takeTurn] using hreset
    rw [← e] at hwf hint ⊢
    exact resetEngine_runInvariant hwf hint
  | succ n ih => exact takeTurn_runInvariant ih (hturns n) (hstep n)

/-- The bytes of a transaction do not pass its length while the table is clean (R42 item 3). -/
theorem MasterParts.k_le_len (h : MasterParts s) (hidle : s.me.phase ≠ .idle) (hd : s.haz.descWrite = false) :
    s.me.k.toNat ≤ s.me.len.toNat := by
  by_cases hp : s.me.phase = .pending
  · simp [(h.transfer.pendingFresh hp).1]
  · have := h.transfer.counted hd ⟨hidle, hp⟩
    simp only [bytesHeld] at this
    omega

/-- A pending event of the hardware layer is owed by the own slave, in the phase of the event or on a hung bus (R42 item 4). -/
theorem SlaveBusOk.pending (h : SlaveBusOk s) (hp : s.sl.pend.toNat = 1 ∨ s.sl.pend.toNat = 2 ∨ s.sl.pend.toNat = 3) :
    s.sl.en = true ∧ s.bus.tgt = .ownSlv ∧
      (s.bus.phase = .hung ∨ (s.sl.pend = evAddrMatch ∧ s.bus.phase = .addr) ∨
        (s.sl.pend = evRxReady ∧ s.bus.phase = .wAckwait) ∨ (s.sl.pend = evTxReady ∧ s.bus.phase = .rDatawait)) := by
  rcases hp with e | e | e
  · have e : s.sl.pend = evAddrMatch := BitVec.eq_of_toNat_eq e
    obtain ⟨hen, ht⟩ := h.pendTarget (.inl e)
    exact ⟨hen, ht, (h.pendAddr e).elim (fun hb => .inr (.inl ⟨e, hb⟩)) .inl⟩
  · have e : s.sl.pend = evRxReady := BitVec.eq_of_toNat_eq e
    obtain ⟨hen, ht⟩ := h.pendTarget (.inr (.inl e))
    exact ⟨hen, ht, (h.pendRx e).elim (fun hb => .inr (.inr (.inl ⟨e, hb⟩))) .inl⟩
  · have e : s.sl.pend = evTxReady := BitVec.eq_of_toNat_eq e
    obtain ⟨hen, ht⟩ := h.pendTarget (.inr (.inr e))
    exact ⟨hen, ht, (h.pendTx e).elim (fun hb => .inr (.inr (.inr ⟨e, hb⟩))) .inl⟩

end

/-! ### The state after reset -/

theorem resetEngine_resetValues (s : State) : ResetValues (resetEngine s) where
  dcmOff := rfl
  channels c := by
    rw [resetEngine_ch]
    exact ⟨rfl, rfl, rfl, rfl, rfl, rfl, rfl, rfl⟩
  master := ⟨rfl, rfl, rfl, rfl, rfl, rfl, rfl, rfl, rfl⟩
  slave := ⟨rfl, rfl, rfl, rfl, rfl, rfl, rfl⟩
  busIdle := ⟨rfl, rfl, rfl, rfl⟩

/-- A RESET step leaves the state after reset as it is. -/
theorem resetEngine_reset : resetEngine State.reset = State.reset := rfl

theorem suggested_paramsOk : ParamsOk Params.suggested suggestedChannels := by
  refine ⟨by decide, ⟨9, by decide, rfl⟩, fun r hr => ?_, nofun⟩
  obtain rfl : r = ⟨0x10000000, 0x4000⟩ := by simpa [Params.suggested] using hr
  decide

end Sys2Proof.Machine

open Sys2Proof Sys2Proof.Machine

/-- Settles O59: the invariants of O57 and O58 hold after RESET and every turn of the run keeps them. -/
theorem theNineInvariantsHoldOnEveryRun : Obligations.TheNineInvariantsHoldOnEveryRun := by
  intro turns states hrun hwf hint hturns n
  have h := run_invariant hrun hwf hint hturns n
  have hm := (masterOk_iff _).2 h.master
  exact ⟨hm.armed, hm.masterChannel,
    fun hidle => ⟨(hm.busy hidle).1, (hm.busy hidle).2.1, (hm.busy hidle).2.2, h.master.k_le_len hidle⟩,
    h.slave.pending, h.slave.faultFatal, h.slave.receivedValid, h.slave.idleFree, hm.onBus,
    fun _ _ hne => rowAddr_disjoint _ hne⟩

/-- Settles O55: the state after reset is a state after a RESET step. -/
theorem theResetStateHoldsTheResetValuesAndInvariants : Obligations.TheResetStateHoldsTheResetValuesAndInvariants := by
  have hi : RunInvariant (resetEngine State.reset) := resetEngine_runInvariant empty_wf nofun
  have hv := resetEngine_resetValues State.reset
  rw [resetEngine_reset] at hi hv
  exact ⟨hv, ⟨rfl, rfl⟩, rfl, ⟨rfl, rfl, rfl⟩, hi.wf, nofun, hi.slave, (masterOk_iff _).2 hi.master, hi.int,
    suggested_paramsOk⟩

/-- Settles O5: the turn of a context that may run and is not blocked issues its next packet. -/
theorem stepIssuesTheNextPacketOfTheScheduledContext : Obligations.StepIssuesTheNextPacketOfTheScheduledContext := by
  have hissue : ∀ (s : State) (c : Ctx) (turns : List Turn) (p : Packet) (rest : List Packet),
      s.sched = .host c :: turns → (c = .fg → s.int.hold = none) → s.ctx c = ⟨p :: rest, none⟩ →
      step s = issue p (((s.setSched turns).setCtx c ⟨rest, none⟩).setCur c) := by
    intro s c turns p rest hsched hfree hctx
    rw [step, hsched]
    exact hostTurn_of_ready ((ctxRuns_iff c _).2 hfree) (by cases c <;> exact hctx)
  refine ⟨fun s c turns p rest hsched hfree hctx => ?_, fun s nbits w i hd => ?_, fun s c p => ?_⟩
  · rw [hissue s c turns p rest hsched hfree hctx, issue]
    exact ⟨fun i hd => by rw [hd], fun hd => by rw [hd]⟩
  · rw [State.withFetchWord, hissue _ .fg s.sched (tablePacket nbits w) s.fg.prog rfl (fun _ => rfl) rfl, issue,
      show decode (tablePacket nbits w) = some i from hd]
    rfl
  · refine ⟨_, rfl, appendPacket_ctx s c p, fun d hd => appendPacket_ctx_other s c d p hd, ?_⟩
    cases c <;> rfl

end

section
/-! PROOFS. The frame of every operation: the surroundings, memory, the hazard record and the registers (R20, R38, R70, R144,
R366, R367). -/

namespace Sys2Proof.Machine

section
variable {s t u : State} {i : Instr} {w : Word}

/-! ### Surroundings, memory and hazards -/

/-- An operation takes no packet, moves no input and does not change the running context. -/
theorem opEffect_surroundings (he : OpEffect s i w u) :
    u.inp = s.inp ∧ u.fg.prog = s.fg.prog ∧ u.int.prog = s.int.prog ∧ u.cur = s.cur := by
  cases he with
  | serviced w u _ _ hc =>
    have k := serviceCase_kept hc
    exact ⟨k.inp, by rw [k.fg], by rw [k.int], k.cur⟩
  | _ => refine ⟨?_, ?_, ?_, ?_⟩ <;> simp

theorem exec_surroundings (h : exec i s = .next t) : SurroundingsKept s t := by
  have hg := grows_exec h
  suffices hs : t.inp = s.inp ∧ t.fg.prog = s.fg.prog ∧ t.int.prog = s.int.prog ∧ t.cur = s.cur by
    obtain ⟨hinp, hfg, hint, hcur⟩ := hs
    exact ⟨hg.par, hg.nCh, hinp, hg.sched, hfg, hint, hcur⟩
  obtain ⟨w, u, hu, rfl⟩ | ⟨k, -, rfl⟩ := exec_outcome h
  · simpa using opEffect_surroundings hu
  · simp

/-- Memory after an operation: as before, or with the row of the channel it builds one for. -/
theorem exec_mem (h : exec i s = .next t) :
    t.mem = s.mem ∨ ∃ c r, rowBuilt i s = some c ∧ t.mem = (s.writeRow (s.rowAddr c) r).mem := by
  obtain ⟨w, u, hu, rfl⟩ | ⟨k, -, rfl⟩ := exec_outcome h
  · rw [record_mem]
    obtain e | ⟨c, r, hc, -, e⟩ := opEffect_mem hu
    · exact .inl e
    · exact .inr ⟨c, r, hc, e⟩
  · left
    rw [setHold_mem]

/-- Some other armed channel's destination shares a byte with the destination channel `c` has in `t` (R367). -/
def ArmsOver (s t : State) (c : ChIdx) : Prop :=
  ∃ (k : Nat) (x : Chan), s.chans[k]? = some x ∧ k ≠ c.toNat ∧ x.active = true ∧
    SharesByte (t.ch c).dst.start.toNat (t.ch c).dst.len.toNat x.dst

theorem armsOver_record (s t : State) (e : Rec) (c : ChIdx) : ArmsOver s (t.record e) c ↔ ArmsOver s t c := Iff.rfl

/-- The hazard of arming a channel whose row has been built (R367). -/
theorem noteArm_haz_iff (s : State) (a : Nat) (r : Row) (c : ChIdx) (x : Chan) :
    let u := noteArm c ((s.writeRow a r).setCh c x)
    u.haz.descWrite = s.haz.descWrite ∧ (u.haz.bufferAlias = true ↔ s.haz.bufferAlias = true ∨ ArmsOver s u c) := by
  refine ⟨by simp, ?_⟩
  rw [noteArm_haz, Bool.or_eq_true, armAliases_iff, setCh_haz, writeRow_haz, ArmsOver, ch_congr (noteArm_chans c _)]
  have hget : ∀ k, k ≠ c.toNat → ((s.writeRow a r).setCh c x).chans[k]? = s.chans[k]? := fun k hk => by
    rw [setCh_chans, writeRow_chans, List.getElem?_set_ne (Ne.symm hk)]
  refine or_congr Iff.rfl (exists_congr fun k => exists_congr fun y => ?_)
  constructor
  · rintro ⟨hy, hk, h⟩
    exact ⟨hget k hk ▸ hy, hk, h⟩
  · rintro ⟨hy, hk, h⟩
    exact ⟨(hget k hk).symm ▸ hy, hk, h⟩

/-- An operation notes a hazard only when it has armed a channel. -/
theorem opEffect_haz (he : OpEffect s i w u) :
    (u.haz = s.haz ∧ (rowBuilt i s ≠ none → w ≠ reply i.chField 0 0x00)) ∨
    ∃ c, rowBuilt i s = some c ∧ w = reply i.chField 0 0x00 ∧ u.trace = s.trace ∧ u.haz.descWrite = s.haz.descWrite ∧
      (u.haz.bufferAlias = true ↔ s.haz.bufferAlias = true ∨ ArmsOver s u c) := by
  cases he with
  | unchanged i w h => exact .inl ⟨rfl, h⟩
  | armed c x =>
    obtain ⟨hd, ha⟩ := noteArm_haz_iff s (s.rowAddr c) (rowOf x) c (armedChan x)
    exact .inr ⟨c, rfl, rfl, by simp, hd, ha⟩
  | started =>
    obtain ⟨hd, ha⟩ := noteArm_haz_iff s (s.rowAddr s.me.ch) (rowOf (masterTransfer s.par s.me)) s.me.ch
      (startedChan s.me.len (s.ch s.me.ch))
    exact .inr ⟨s.me.ch, rfl, rfl, by simp, hd, ha⟩
  | serviced w u _ _ hc => exact .inl ⟨(serviceCase_kept hc).haz, fun h => absurd rfl h⟩
  | described => exact .inl ⟨rfl, fun h => absurd (rowBuilt_describeOp ..) h⟩
  | enabled | taken | slaveEnabled => exact .inl ⟨rfl, fun h => absurd rfl h⟩
  | chWaited | mWaited => exact .inl ⟨by simp, fun h => absurd rfl h⟩

theorem exec_haz (h : exec i s = .next t) :
    t.haz.descWrite = s.haz.descWrite ∧
    (t.haz.bufferAlias = true ↔ s.haz.bufferAlias = true ∨
      ∃ c, rowBuilt i s = some c ∧ t.trace = s.trace ++ [opRec i s (reply i.chField 0 0x00)] ∧ ArmsOver s t c) := by
  obtain ⟨w, u, hu, rfl⟩ | ⟨k, hb, rfl⟩ := exec_outcome h
  · obtain ⟨hhaz, hw⟩ | ⟨c, hc, rfl, htrace, hd, ha⟩ := opEffect_haz hu
    · refine ⟨by rw [record_haz, hhaz], ?_⟩
      rw [record_haz, hhaz, or_iff_left]
      rintro ⟨c, hc, htrace, -⟩
      rw [record_trace] at htrace
      have hrec := List.append_inj_right' htrace (by rw [List.length_singleton, List.length_singleton])
      simp only [opRec, List.cons.injEq, Rec.op.injEq] at hrec
      exact hw (by simp [hc]) hrec.1.2.2
    · rw [record_haz, record_trace, htrace]
      refine ⟨hd, ha.trans (or_congr Iff.rfl ⟨fun h => ⟨c, hc, rfl, (armsOver_record ..).2 h⟩, ?_⟩)⟩
      rintro ⟨d, hd, -, h⟩
      rw [hc] at hd
      cases hd
      exact (armsOver_record ..).1 h
  · refine ⟨by rw [setHold_haz], ?_⟩
    rw [setHold_haz, or_iff_left]
    rintro ⟨c, hc, -⟩
    cases hb <;> cases hc

/-! ### Registers -/

theorem opEffect_dcm (he : OpEffect s i w u) (hi : ∀ base, i ≠ .dmaEnable base) : u.dcm = s.dcm := by
  cases he with
  | enabled base => exact absurd rfl (hi base)
  | serviced w u _ _ hc => exact (serviceCase_kept hc).dcm
  | _ => simp

/-- An operation writes the registers of the one channel that is its own (R38). -/
theorem opEffect_ch (he : OpEffect s i w u) {c : ChIdx} (hc : channelWritten i s ≠ some c) : u.ch c = s.ch c := by
  have hne : ∀ {d : ChIdx}, channelWritten i s = some d → c ≠ d := fun h e => hc (e ▸ h)
  cases he with
  | unchanged => rfl
  | enabled | slaveEnabled => rfl
  | taken d => exact ch_setCh_other s d c _ (hne rfl)
  | armed d x => exact (ch_congr (by simp) c).trans (ch_setCh_other s d c (armedChan x) (hne rfl))
  | chWaited d => exact (ch_setCh_other _ d c _ (hne rfl)).trans (ch_congr (by simp) c)
  | described dir addr ptr len d =>
    exact ch_setCh_other s d c (describedChan dir ptr len (s.ch d)) (hne (by cases dir <;> rfl))
  | started =>
    exact (ch_congr (by simp) c).trans (ch_setCh_other s s.me.ch c (startedChan s.me.len (s.ch s.me.ch)) (hne rfl))
  | mWaited => exact (ch_setCh_other _ s.me.ch c (releasedChan (s.ch s.me.ch)) (hne rfl)).trans (ch_congr (by simp) c)
  | serviced w u _ _ hc => exact ch_congr (serviceCase_kept hc).chans c

/-- The operations of the Descriptor/Channel Manager leave the other units alone (R20). -/
theorem opEffect_of_usesDcm (he : OpEffect s i w u) (hi : usesDcm i = true) : u.me = s.me ∧ u.sl = s.sl ∧ u.bus = s.bus := by
  cases he with
  | described dir => cases dir <;> cases hi
  | started | mWaited | slaveEnabled | serviced => cases hi
  | _ => simp

/-- Those of the Master Engine leave the slave, the bus and the data register alone (R20, R191). -/
theorem opEffect_of_usesMaster (he : OpEffect s i w u) (hi : usesMaster i = true) :
    u.sl = s.sl ∧ u.bus = s.bus ∧ u.me.dat = s.me.dat := by
  cases he with
  | enabled | taken | armed | chWaited | slaveEnabled | serviced => cases hi
  | described => exact ⟨rfl, rfl, rfl⟩
  | _ => simp

theorem opEffect_sEnable {addr : Nat} (he : OpEffect s (.sEnable addr) w u) :
    u.me = s.me ∧ u.bus = s.bus ∧ u.sl = { s.sl with addr := u.sl.addr, en := u.sl.en } := by
  generalize hi : Instr.sEnable addr = i at he
  cases he with
  | unchanged | slaveEnabled => exact ⟨rfl, rfl, rfl⟩
  | described dir => cases dir <;> cases hi
  | _ => cases hi

/-- `AfterAddrAck` writes the phases and the indicator (R284). -/
theorem afterAddrAck_regs (s : State) :
    (∃ p, (afterAddrAck s).me = { s.me with phase := p }) ∧ (∃ p, (afterAddrAck s).bus = { s.bus with phase := p }) ∧
    (∃ e, (afterAddrAck s).sl = { s.sl with pend := e }) := by
  rw [afterAddrAck_me, afterAddrAck_bus, afterAddrAck_sl, slaveLatch_sl]
  refine ⟨?_, ?_, ?_⟩
  · split_ifs
    · exact ⟨_, rfl⟩
    · exact ⟨s.me.phase, rfl⟩
  · split_ifs
    · exact ⟨_, rfl⟩
    · exact ⟨s.bus.phase, rfl⟩
  · split_ifs
    · exact ⟨_, rfl⟩
    · exact ⟨s.sl.pend, rfl⟩
    · exact ⟨s.sl.pend, rfl⟩

/-- `SlaveAckData` writes the phase of the bus (R286). -/
theorem slaveAckData_regs (s : State) : ∃ p, (slaveAckData s).bus = { s.bus with phase := p } := by
  rw [slaveAckData_bus]
  split_ifs
  · exact ⟨_, rfl⟩
  · exact ⟨s.bus.phase, rfl⟩

/-- `SupplyData` writes the byte on the bus and the data register (R287). -/
theorem supplyData_regs (s : State) (d : Driver) (b : Byte) :
    (∃ x f, (supplyData d b s).me = { s.me with dat := x, full := f }) ∧
    (∃ y p, (supplyData d b s).bus = { s.bus with byte := y, phase := p }) := by
  rw [supplyData_me, supplyData_bus]
  constructor
  · split_ifs
    · exact ⟨_, _, rfl⟩
    · exact ⟨s.me.dat, s.me.full, rfl⟩
  · split_ifs
    · exact ⟨_, _, rfl⟩
    · exact ⟨s.bus.byte, s.bus.phase, rfl⟩

/-- The registers of master, bus and slave that S.SERVICE may write (R244 to R249). -/
structure ServiceRegs (s t : State) : Prop where
  me : ∃ p d f, t.me = { s.me with phase := p, dat := d, full := f }
  bus : ∃ p b, t.bus = { s.bus with phase := p, byte := b }
  sl : t.sl.en = s.sl.en ∧ t.sl.addr = s.sl.addr ∧ t.sl.rxdat = s.sl.rxdat ∧ t.sl.sel = s.sl.sel

/-- A case that writes only the slave. -/
theorem ServiceRegs.of_sl (hme : u.me = s.me) (hbus : u.bus = s.bus)
    (hsl : u.sl.en = s.sl.en ∧ u.sl.addr = s.sl.addr ∧ u.sl.rxdat = s.sl.rxdat ∧ u.sl.sel = s.sl.sel) : ServiceRegs s u :=
  ⟨⟨_, _, _, hme⟩, ⟨_, _, hbus⟩, hsl⟩

/-- A case that supplies a byte after it has written the slave. -/
theorem serviceRegs_supplyData {v : State} (hme : v.me = s.me) (hbus : v.bus = s.bus)
    (hsl : v.sl.en = s.sl.en ∧ v.sl.addr = s.sl.addr ∧ v.sl.rxdat = s.sl.rxdat ∧ v.sl.sel = s.sl.sel) (d : Driver) (b : Byte) :
    ServiceRegs s (supplyData d b v) := by
  obtain ⟨⟨x, f, hm⟩, y, p, hb⟩ := supplyData_regs v d b
  exact ⟨⟨_, x, f, hm.trans (by rw [hme])⟩, ⟨p, y, hb.trans (by rw [hbus])⟩, by rw [supplyData_sl]; exact hsl⟩

theorem serviceCase_regs (hc : ServiceCase s u) : ServiceRegs s u := by
  cases hc with
  | addrMatch =>
    obtain ⟨⟨p, hm⟩, ⟨q, hb⟩, e, hsl⟩ := afterAddrAck_regs
      ((s.setSl { s.sl with state := .addressMatched, pend := evNone }).record (.sym .ack .ownSlave))
    exact ⟨⟨p, _, _, hm⟩, ⟨q, _, hb⟩, by rw [serviceAddrMatch, hsl]; exact ⟨rfl, rfl, rfl, rfl⟩⟩
  | rxReady =>
    obtain ⟨p, hb⟩ := slaveAckData_regs
      ((s.setSl { s.sl with last := s.sl.rxdat, lastValid := true, state := .receivingByte, pend := evNone }).record
        (.sym .ack .ownSlave))
    exact ⟨⟨_, _, _, slaveAckData_me _⟩, ⟨p, _, hb⟩, by rw [serviceRxReady, slaveAckData_sl]; exact ⟨rfl, rfl, rfl, rfl⟩⟩
  | txReady =>
    unfold serviceTxReady
    refine serviceRegs_supplyData ?_ ?_ ?_ _ _ <;> simp
  | underrun =>
    unfold serviceUnderrun
    split
    · exact .of_sl rfl rfl ⟨rfl, rfl, rfl, rfl⟩
    · refine serviceRegs_supplyData ?_ ?_ ?_ _ _ <;> simp
  | fault => exact .of_sl rfl rfl ⟨rfl, rfl, rfl, rfl⟩

theorem opEffect_sService (he : OpEffect s .sService w u) : u.chans = s.chans ∧ ServiceRegs s u := by
  generalize hi : Instr.sService = i at he
  cases he with
  | unchanged => exact ⟨rfl, .of_sl rfl rfl ⟨rfl, rfl, rfl, rfl⟩⟩
  | serviced w u _ _ hc => exact ⟨(serviceCase_kept hc).chans, serviceCase_regs hc⟩
  | described dir => cases dir <;> cases hi
  | _ => cases hi

/-- The free byte is drawn by S.SERVICE alone (R247). -/
theorem opEffect_draws (he : OpEffect s i w u) (hi : i ≠ .sService) : u.draws = s.draws := by
  cases he with
  | serviced => exact absurd rfl hi
  | _ => simp

end

end Sys2Proof.Machine

open Sys2Proof Sys2Proof.Machine

/-- Settles O32: memory and hazards by the ways an operation ends. -/
theorem operationsStoreOnlyIntoTheRowTheyBuild : Obligations.OperationsStoreOnlyIntoTheRowTheyBuild := by
  intro i s t h
  have hhaz := exec_haz h
  refine ⟨exec_surroundings h, fun c hc x hx => ?_, fun hnone x => ?_, hhaz.1, hhaz.2⟩
  · obtain e | ⟨d, r, hd, e⟩ := exec_mem h
    · rw [State.byteAt, e, State.byteAt]
    · rw [hc] at hd
      cases hd
      have hkept := writeRow_keeps s (s.rowAddr c) r x (by rw [descRowBytes]; exact hx)
      rw [State.byteAt] at hkept
      rw [State.byteAt, e]
      exact hkept
  · obtain e | ⟨d, r, hd, -⟩ := exec_mem h
    · rw [State.byteAt, e, State.byteAt]
    · rw [hnone] at hd
      cases hd

/-- Settles O33: the registers by the ways an operation ends; a WAIT that is left blocked writes none. -/
theorem operationsWriteOnlyTheRegistersOfTheirRule : Obligations.OperationsWriteOnlyTheRegistersOfTheirRule := by
  intro i s t h
  obtain ⟨w, u, hu, rfl⟩ | ⟨k, -, rfl⟩ := exec_outcome h
  · have hch : ∀ c, (u.record (opRec i s w)).ch c = u.ch c := ch_congr (record_chans ..)
    simp only [record_dcm, record_me, record_sl, record_bus, record_chans, record_draws, hch]
    refine ⟨opEffect_dcm hu, fun c hc => opEffect_ch hu hc, opEffect_of_usesDcm hu, opEffect_of_usesMaster hu, ?_, ?_,
      opEffect_draws hu⟩
    · rintro addr rfl
      exact opEffect_sEnable hu
    · rintro rfl
      obtain ⟨hch, ⟨p, d, f, hme⟩, ⟨q, b, hbus⟩, hen, haddr, hrx, hsel⟩ := opEffect_sService hu
      refine ⟨hch, ?_, ?_, ?_⟩
      · rw [hme]
      · rw [hbus]
      · rw [← hen, ← haddr, ← hrx, ← hsel]
  · refine ⟨?_, fun c _ => ch_congr (setHold_chans ..) c, ?_⟩ <;> simp

end

section
/-! PROOFS. Memory reads back what was written (R71, R72), every step keeps its canonical form and the admitted table (R73, R76,
R141), and the host processor's own accesses (R77, R78, R366, R367). -/

namespace Sys2Proof.Machine

/-! ### The bytes of a wide write -/

/-- The byte of a wide write with `j` bytes below it (R71). -/
theorem read_writeLE_at {m : Memory} (hm : Memory.sorted m) {a n v j : Nat} (hj : j < n) :
    ((m.writeLE a n v).read (a + j)).toNat = v / 256 ^ j % 256 := by
  induction n generalizing m a v j with
  | zero => omega
  | succ n ih =>
    rw [Memory.writeLE]
    cases j with
    | zero => simp [read_writeLE_other, read_write_same _ _ _ hm]
    | succ j =>
      have h := ih (write_sorted m a (BitVec.ofNat 8 v) hm) (a := a + 1) (v := v / 256) (j := j) (by omega)
      rw [show a + (j + 1) = a + 1 + j by omega, h, Nat.div_div_eq_div_mul, pow_succ']

/-! ### The table -/

section
variable {s t u : State}

/-- The table is spoken of by the base, the parameters and the number of channels alone. -/
theorem TableOk.of_eq (h : TableOk s) (hdcm : t.dcm = s.dcm) (hpar : t.par = s.par) (hn : t.nCh = s.nCh) : TableOk t := by
  have hbytes : t.tableBytes = s.tableBytes := by rw [State.tableBytes, State.tableBytes, hn]
  rw [TableOk, hdcm, hpar, hbytes]
  exact h

/-- DMA.ENABLE turns the engine on with an admitted table, and no other operation writes the base (R141). -/
theorem opEffect_tableOk (h : TableOk s) {i : Instr} {w : Word} (he : OpEffect s i w u) : TableOk u := by
  by_cases hi : ∃ base, i = .dmaEnable base
  · obtain ⟨base, rfl⟩ := hi
    generalize hb : Instr.dmaEnable base = i at he
    cases he with
    | unchanged => exact h
    | enabled base _ halign hin hadm => exact fun _ => ⟨halign, hin, hadm⟩
    | described dir => cases dir <;> cases hb
    | _ => cases hb
  · have hg := grows_opEffect he
    exact h.of_eq (opEffect_dcm he fun base e => hi ⟨base, e⟩) hg.par hg.nCh

theorem exec_tableOk (h : TableOk s) {i : Instr} (he : exec i s = .next t) : TableOk t := by
  obtain ⟨w, u, hu, rfl⟩ | ⟨k, -, rfl⟩ := exec_outcome he
  · exact (opEffect_tableOk h hu).of_eq rfl rfl rfl
  · have hg := grows_setHold s s.cur (some k)
    exact h.of_eq (setHold_dcm ..) hg.par hg.nCh

theorem hostMove_tableOk (h : TableOk s) {x : Ctx} (hm : HostMove x s t) : TableOk t := by
  have hg := grows_hostMove hm
  cases hm with
  | passes => exact h
  | staysBlocked => exact h.of_eq rfl hg.par hg.nCh
  | chWaitEnds | mWaitEnds => exact h.of_eq (by simp [State.waitReturned]) hg.par hg.nCh
  | rejects => exact h.of_eq (by simp) hg.par hg.nCh
  | executes p rest i t _ _ he =>
    have hg := grows_issuing s x ⟨rest, none⟩
    exact exec_tableOk (h.of_eq (by simp) hg.par hg.nCh) he

theorem seqMove_dcm {c : ChIdx} (hm : SeqMove c s t) : t.dcm = s.dcm := by
  cases hm with
  | waits | aborts => rfl
  | moves => exact (moveElement_moved c (s.readRow (s.rowAddr c)) s).dcm

theorem mfuMove_dcm {m : MfuStep} (hm : MfuMove s m t) : t.dcm = s.dcm := by
  cases hm with
  | nack => rfl
  | _ => simp

theorem busMove_dcm (hm : BusMove s t) : t.dcm = s.dcm := by
  cases hm <;> rfl

theorem envMove_dcm {e : EnvStep} (hm : EnvMove s e t) : t.dcm = s.dcm := by
  cases hm with
  | wdata ack => cases ack <;> rfl
  | masterRestart => simp [envXmRestart]
  | timeout =>
    simp only [envTimeout]
    split_ifs <;> simp
  | slaveFault => rfl
  | _ => simp

theorem outsideMove_dcm {o : OutsideStep} (hm : OutsideMove s o t) : t.dcm = s.dcm := by
  cases hm with
  | inputs | load | store => rfl
  | append => simp

/-- Every turn keeps the table of an enabled engine admitted; RESET turns the engine off (R73, R360). -/
theorem takeTurn_tableOk (h : TableOk s) {turn : Turn} (ht : takeTurn turn s = .next t) : TableOk t := by
  have hg := takeTurn_grows ht
  cases turn with
  | host x => exact hostMove_tableOk h (hostTurn_move ht)
  | seq c => cases ht; exact h.of_eq (seqMove_dcm (seqStep_move c s)) hg.par hg.nCh
  | mfu m => cases ht; exact h.of_eq (mfuMove_dcm (mfuStep_move m s)) hg.par hg.nCh
  | bus => cases ht; exact h.of_eq (busMove_dcm (busStep_move s)) hg.par hg.nCh
  | env e => cases ht; exact h.of_eq (envMove_dcm (envStep_move e s)) hg.par hg.nCh
  | reset => cases ht; exact nofun
  | outside o => exact h.of_eq (outsideMove_dcm (outsideStep_move ht)) hg.par hg.nCh

end

/-! ### The host processor's accesses -/

theorem spanContains_iff (a : Word) (n : Nat) (b : Word) :
    spanContains a n b = true ↔ a.toNat ≤ b.toNat ∧ b.toNat < a.toNat + n := by
  simp [spanContains]

theorem AccWidth.bytes_pos (w : AccWidth) : 0 < w.bytes := by
  cases w <;> decide

/-- The test of a host access in flight (R367). -/
theorem hostAliases_iff (s : State) (a n : Nat) (hn : 0 < n) :
    s.hostAliases a n = true ↔ ∃ x ∈ s.chans, x.own = .xfer ∧ (SharesByte a n x.src ∨ SharesByte a n x.dst) := by
  simp only [State.hostAliases, List.any_eq_true, Bool.and_eq_true, Bool.or_eq_true, decide_eq_true_eq, overlaps_iff _ _ _ hn]

/-- What a host access does, by the test of the port and `MEM_ADMIT` (R72, R77, R78). -/
theorem hostAccess_cases (a : Word) (w : AccWidth) (isStore : Bool) (s : State) (effect : State → State) :
    (spanContains a w.bytes s.par.aMstdat = true → hostAccess a w isStore s effect = .refused .hostPortAccess) ∧
    (spanContains a w.bytes s.par.aMstdat = false → memAdmit s.par a.toNat w.bytes = false →
      hostAccess a w isStore s effect = .fault .hostNotAdmitted) ∧
    (spanContains a w.bytes s.par.aMstdat = false → memAdmit s.par a.toNat w.bytes = true →
      hostAccess a w isStore s effect =
        .next (effect (s.noteHaz (isStore && s.hitsTable a.toNat w.bytes) (s.hostAliases a.toNat w.bytes)))) := by
  refine ⟨fun hp => ?_, fun hp ha => ?_, fun hp ha => ?_⟩
  · simp [hostAccess, hp]
  · simp [hostAccess, hp, ha]
  · simp [hostAccess, hp, ha]

end Sys2Proof.Machine

open Sys2Proof Sys2Proof.Machine

/-- Settles O37: the laws of a wide write, on a memory whose entries are in order. -/
theorem memoryReadsBackWhatWasWritten : Obligations.MemoryReadsBackWhatWasWritten := by
  intro m a n v hwf _
  exact ⟨readLE_writeLE_same hwf.1 a n v, fun j hj => read_writeLE_at hwf.1 hj, fun x hx => read_writeLE_other m a n v x hx⟩

/-- Settles O56: a step is nothing or a turn, and every turn keeps both. -/
theorem everyStepKeepsTheMemoryFormAndTheTable : Obligations.EveryStepKeepsTheMemoryFormAndTheTable := by
  intro s t hs
  obtain rfl | ⟨turn, rest, -, ht⟩ := step_cases hs
  · exact ⟨id, id⟩
  · exact ⟨fun h => takeTurn_wf (s := s.setSched rest) h ht,
      fun h => takeTurn_tableOk (s := s.setSched rest) (h.of_eq rfl rfl rfl) ht⟩

/-- Settles O42: the three outcomes of a host access, for a load and for a store. -/
theorem hostAccessesHappenAndNoteTheirHazards : Obligations.HostAccessesHappenAndNoteTheirHazards := by
  intro a w v s n port shared
  have hport : port ↔ spanContains a n s.par.aMstdat = true := (spanContains_iff a n s.par.aMstdat).symm
  have hno : ¬ port → spanContains a n s.par.aMstdat = false := fun h => Bool.eq_false_iff.2 fun e => h (hport.2 e)
  have hshared : (s.haz.bufferAlias || s.hostAliases a.toNat n) = true ↔ shared := by
    rw [Bool.or_eq_true, hostAliases_iff s a.toNat n w.bytes_pos]
  obtain ⟨hload, hloadFault, hloadOk⟩ := hostAccess_cases a w false s id
  obtain ⟨hstore, hstoreFault, hstoreOk⟩ := hostAccess_cases a w true s (fun x => x.memWrite a.toNat w.bytes v)
  refine ⟨fun hp => ⟨hload (hport.1 hp), hstore (hport.1 hp)⟩,
    fun hp ha => ⟨hloadFault (hno hp) ha, hstoreFault (hno hp) ha⟩, fun hp ha => ⟨?_, ?_⟩⟩
  · exact ⟨_, hloadOk (hno hp) ha, rfl, Bool.or_false _, hshared⟩
  · refine ⟨_, hstoreOk (hno hp) ha, rfl, memWrite_keeps (s.noteHaz _ _) a.toNat n v, fun hwf => ?_, ?_, hshared⟩
    · rw [State.memRead, memWrite_mem]
      exact congrArg _ (readLE_writeLE_same hwf.1 a.toNat n v.toNat)
    · rw [memWrite_haz, noteHaz_haz, Bool.or_eq_true, Bool.true_and]
      simp only [State.hitsTable, Bool.and_eq_true, decide_eq_true_eq, and_assoc]
      exact Iff.rfl

end

section
/-! PROOFS. The element step said exactly: when a fetched row does not abort, the state the move leaves and the hazards it notes
(R148, R366, R367); what a built row says of its Transfer (R107 to R109, R143); and the move through the port (R78, R193, R196). -/

namespace Sys2Proof.Machine

/-! ### What a built row says -/

/-- `ValidTransfer` as its seven conditions (R143). -/
theorem validTransfer_iff (p : Params) (x : Transfer) (allowPort : Bool) :
    validTransfer p x allowPort = true ↔
      x.width < 3 ∧ (1 ≤ x.count.toNat ∧ x.count.toNat ≤ countMax) ∧ (allowPort = false → x.trig = 0) ∧
      (x.src.toNat % elemBytes x.width = 0 ∧ x.dst.toNat % elemBytes x.width = 0) ∧
      (srcSpan x ≤ x.srcLen.toNat ∧ dstSpan x ≤ x.dstLen.toNat) ∧
      (x.src.toNat + srcSpan x ≤ 2 ^ 32 ∧ x.dst.toNat + dstSpan x ≤ 2 ^ 32) ∧
      (allowPort = false → spanContains x.src (srcSpan x) p.aMstdat = false ∧
        spanContains x.dst (dstSpan x) p.aMstdat = false) := by
  cases allowPort <;> simp [validTransfer, and_assoc]

/-- The low half of `CFG` as a number (R108). -/
theorem cfgWord_low_toNat {width : Nat} (hw : width < 3) (srcInc dstInc : Bool) :
    (1#32 ||| (BitVec.ofNat 32 width <<< 8) ||| (incWord srcInc <<< 12) ||| (incWord dstInc <<< 14)).toNat =
      1 + 256 * width + 4096 * srcInc.toNat + 16384 * dstInc.toNat := by
  interval_cases width <;> cases srcInc <;> cases dstInc <;> rfl

section
variable {x : Transfer} (hw : x.width < 3) (h1 : 1 ≤ x.count.toNat) (hmax : x.count.toNat ≤ countMax)
include hw h1 hmax

/-- `CFG` as a number (R108). -/
theorem cfgWord_toNat :
    (cfgWord x).toNat = 1 + 256 * x.width + 4096 * x.srcInc.toNat + 16384 * x.dstInc.toNat + 65536 * (x.count.toNat - 1) := by
  have hs := x.srcInc.toNat_le
  have hd := x.dstInc.toNat_le
  have hcount : (x.count - 1#32).toNat = x.count.toNat - 1 := by
    simp only [countMax] at hmax
    simp only [BitVec.toNat_sub, BitVec.toNat_ofNat]
    omega
  simp only [countMax] at hmax
  rw [cfgWord, BitVec.toNat_or, cfgWord_low_toNat hw, BitVec.toNat_shiftLeft, hcount, Nat.or_comm,
    Nat.mod_eq_of_lt (by rw [Nat.shiftLeft_eq]; omega), ← Nat.shiftLeft_add_eq_or_of_lt (by omega), Nat.shiftLeft_eq]
  omega

/-- A built row is well-formed (R149). -/
theorem rowWellFormed_rowOf : rowWellFormed (rowOf x) = true := by
  have hs := x.srcInc.toNat_le
  have hd := x.dstInc.toNat_le
  have hcfg := cfgWord_toNat hw h1 hmax
  simp only [countMax] at hmax
  simp only [rowWellFormed, rowOf, Bool.and_eq_true, decide_eq_true_eq, ne_eq, ← BitVec.toNat_inj, BitVec.extractLsb'_toNat,
    Nat.shiftRight_eq_div_pow, hcfg, BitVec.ofNat_eq_ofNat, BitVec.toNat_ofNat]
  refine ⟨⟨⟨⟨⟨⟨⟨?_, ?_⟩, ?_⟩, ?_⟩, ?_⟩, ?_⟩, ?_⟩, trivial⟩ <;> omega

/-- A built row counts the Transfer's elements (R108). -/
theorem cfgCount_rowOf : cfgCount (rowOf x).cfg = x.count.toNat := by
  have hs := x.srcInc.toNat_le
  have hd := x.dstInc.toNat_le
  have hcfg := cfgWord_toNat hw h1 hmax
  simp only [countMax] at hmax
  simp only [cfgCount, rowOf, BitVec.extractLsb'_toNat, Nat.shiftRight_eq_div_pow, hcfg]
  omega

end

/-- The element with `r` remaining stands `count - r` elements above the start, or at the start (R109). -/
theorem elemAddr_endAddr_toNat {start count : Word} {r : Count} {w : Nat} {inc : Bool} (hw : w < 3)
    (hmax : count.toNat ≤ countMax) (hwrap : inc = true → start.toNat + count.toNat * elemBytes w ≤ 2 ^ 32) (h1 : 1 ≤ r.toNat)
    (hr : r.toNat ≤ count.toNat) :
    (elemAddr (endAddr start count w inc) r w inc).toNat =
      start.toNat + if inc then (count.toNat - r.toNat) * elemBytes w else 0 := by
  cases inc with
  | false => simp [elemAddr_fixed]
  | true =>
    have hwrap := hwrap rfl
    have := start.isLt
    simp only [countMax] at hmax
    interval_cases w <;>
      simp [elemAddr, endAddr, incWord, elemBytes, BitVec.toNat_add, BitVec.toNat_sub, BitVec.toNat_mul] at hwrap ⊢ <;> omega

/-- The address of an element of one byte (R109). -/
theorem elemAddr_byte (endA : Word) (r : Count) (inc : Bool) :
    elemAddr endA r 0 inc = endA - if inc = true then BitVec.ofNat 32 r.toNat - 1#32 else 0#32 := by
  cases inc <;> simp [elemAddr, elemBytes, incWord]

/-! ### The element step -/

section
variable {s t : State} {c : ChIdx}

theorem SeqMayMove.active (hmay : SeqMayMove s c) : (s.ch c).active = true := by
  obtain ⟨-, -, -, hact, -⟩ := hmay
  exact hact

/-- The element step of a channel that does not exist is not enabled. -/
theorem SeqMayMove.chExists (hmay : SeqMayMove s c) : c.toNat < s.nCh := by
  have hact := hmay.active
  by_contra hn
  rw [ch_absent s c (by omega)] at hact
  exact absurd hact nofun

/-- An enabled element step whose row is admitted and does not abort moves an element (R148). -/
theorem takeTurn_seq_moves (hmay : SeqMayMove s c) (hadm : rowAdmitted s.par (s.rowAddr c) = true)
    (hrow : rowAborts s c (s.readRow (s.rowAddr c)) = false) :
    takeTurn (.seq c) s = .next (moveElement c (s.readRow (s.rowAddr c)) s) := by
  simp [takeTurn, seqStep, (seqEnabled_iff s c).2 hmay, hadm, hrow]

/-- A good row whose endpoints are admitted, and are the port only on the master's channel of bytes, does not abort (R148,
R149). -/
theorem rowAborts_eq_false {row : Row} (hwf : rowWellFormed row = true) (hcount : (s.ch c).rem.toNat ≤ cfgCount row.cfg)
    (hport : (rowSource s.par row (s.ch c).rem).port = true ∨ (rowDest s.par row (s.ch c).rem).port = true →
      elemBytes (cfgWidth row.cfg) = 1 ∧ (s.ch c).trig = .i2cMst)
    (hsrc : (rowSource s.par row (s.ch c).rem).port = true ∨
      memAdmit s.par (rowSource s.par row (s.ch c).rem).addr.toNat (elemBytes (cfgWidth row.cfg)) = true)
    (hdst : (rowDest s.par row (s.ch c).rem).port = true ∨
      memAdmit s.par (rowDest s.par row (s.ch c).rem).addr.toNat (elemBytes (cfgWidth row.cfg)) = true) :
    rowAborts s c row = false := by
  simp only [rowAborts, hwf, Bool.or_eq_false_iff, Bool.and_eq_false_iff, Bool.not_eq_false', decide_eq_false_iff_not, ne_eq,
    not_not, not_lt]
  refine ⟨⟨⟨⟨trivial, hcount⟩, ?_⟩, hsrc⟩, hdst⟩
  by_cases hp : (rowSource s.par row (s.ch c).rem).port = true ∨ (rowDest s.par row (s.ch c).rem).port = true
  · exact .inr (hport hp)
  · exact .inl (by simpa using hp)

/-- The element an endpoint gives does not depend on the hazards (R78, R148). -/
theorem readEndpoint_noteHaz (e : Endpoint) (w : Nat) (s : State) (p q : Bool) :
    (readEndpoint e w (s.noteHaz p q)).1 = (readEndpoint e w s).1 := by
  cases h : e.port <;> simp only [readEndpoint, h] <;> rfl

/-- The state after an endpoint is read (R78). -/
theorem readEndpoint_state (e : Endpoint) (w : Nat) (s : State) :
    (readEndpoint e w s).2 = { s with
      me := readMaster e.port s.me
      draws := if e.port && !s.me.full then s.draws + 1 else s.draws } := by
  cases hp : e.port
  · simp [readEndpoint, hp, readMaster]
  · cases hf : s.me.full <;> simp [readEndpoint, hp, portRead, hf, readMaster, byteTaken] <;> rfl

/-- The state after an endpoint is written (R72, R78). -/
theorem writeEndpoint_state (e : Endpoint) (w : Nat) (v : Word) (s : State) :
    writeEndpoint e w v s = { s with
      mem := if e.port then s.mem else s.mem.writeLE e.addr.toNat w v.toNat
      me := writtenMaster e.port (v.setWidth 8) s.me } := by
  cases h : e.port <;> simp only [writeEndpoint, h, writtenMaster] <;> rfl

/-- The state after a move, field by field (R78, R148, R151, R366, R367). -/
theorem moveElement_eq (c : ChIdx) (row : Row) (s : State) {sp dp : Endpoint} {w : Nat} {v : Word}
    (hsp : rowSource s.par row (s.ch c).rem = sp) (hdp : rowDest s.par row (s.ch c).rem = dp)
    (hw : elemBytes (cfgWidth row.cfg) = w) (hv : (readEndpoint sp w s).1 = v) :
    moveElement c row s = { s with
      mem := if dp.port then s.mem else s.mem.writeLE dp.addr.toNat w v.toNat
      chans := s.chans.set c.toNat (countedChan (s.ch c))
      me := writtenMaster dp.port (v.setWidth 8) (readMaster sp.port s.me)
      haz := (noteMove c sp dp w s).haz
      draws := if sp.port && !s.me.full then s.draws + 1 else s.draws
      trace := s.trace ++ [.dma c sp.addr dp.addr w v] } := by
  have hv' : (readEndpoint sp w (noteMove c sp dp w s)).1 = v := (readEndpoint_noteHaz sp w s _ _).trans hv
  simp only [moveElement, hsp, hdp, hw, hv', readEndpoint_state, writeEndpoint_state]
  rfl

/-- The hazards of a move, in the words of the rules (R366, R367). -/
theorem notesMove_of_haz {sp dp : Endpoint} {w : Nat} (hw : 0 < w) (hc : c.toNat < s.nCh)
    (h : t.haz = (noteMove c sp dp w s).haz) :
    NotesMove s t c (if sp.port = true then none else some sp.addr.toNat)
      (if dp.port = true then none else some dp.addr.toNat) w := by
  have hn : 0 < s.nCh := by omega
  rw [NotesMove, h, noteMove, noteHaz_haz]
  simp only [Bool.or_eq_true, Bool.and_eq_true, hitsTable_iff s _ w hw hn, readAliases_iff s c _ w hw,
    writeAliases_iff s c _ w hw]
  cases sp.port <;> cases dp.port <;> simp [← exists_or, ← and_or_left]

/-- The registers of an active channel after one element (R148, R151). -/
theorem countedChan_of_active {x : Chan} (h : x.active = true) :
    countedChan x = { x with rem := x.rem - 1, active := decide (x.rem ≠ 1) } := by
  have hrem : x.rem - 1 ≠ 0 ↔ x.rem ≠ 1 := by bv_omega
  simp only [countedChan, h, Bool.true_and, hrem]

/-- One channel has been written and the others have not. -/
theorem ch_of_chans_set {x : Chan} (h : t.chans = s.chans.set c.toNat x) (hc : c.toNat < s.nCh) :
    t.ch c = x ∧ OtherChansKept s t c :=
  ⟨(ch_congr (s := s.setCh c x) h c).trans (ch_setCh_same s c x hc),
    fun d hd => (ch_congr (s := s.setCh c x) h d).trans (ch_setCh_other s c d x hd)⟩

/-! ### The move of a byte -/

/-- An element of one byte, as it is read at an endpoint: the byte in memory, or the one in the port (R72, R78). -/
theorem readEndpoint_byte (e : Endpoint) (s : State) :
    ∃ v : Byte, (readEndpoint e 1 s).1 = v.setWidth 32 ∧ (e.port = false → v = s.byteAt e.addr.toNat) ∧
      (e.port = true → s.me.full = true → v = s.me.dat) := by
  cases hp : e.port with
  | false =>
    refine ⟨s.byteAt e.addr.toNat, ?_, fun _ => rfl, nofun⟩
    simp [readEndpoint, hp, State.memRead, Memory.readLE, State.byteAt]
  | true => exact ⟨portByte s, by simp [readEndpoint, hp], nofun, fun _ hf => portByte_full s hf⟩

/-- The state after channel `c` has moved the byte `v` from endpoint `sp` to endpoint `dp` (R78, R148). -/
def byteMoved (c : ChIdx) (sp dp : Endpoint) (v : Byte) (s : State) : State :=
  { s with
    mem := if dp.port then s.mem else s.mem.write dp.addr.toNat v
    chans := s.chans.set c.toNat (countedChan (s.ch c))
    me := writtenMaster dp.port v (readMaster sp.port s.me)
    haz := (noteMove c sp dp 1 s).haz
    draws := if sp.port && !s.me.full then s.draws + 1 else s.draws
    trace := s.trace ++ [.dma c sp.addr dp.addr 1 (BitVec.ofNat 32 v.toNat)] }

/-- The element step of the master's channel with a good row of bytes moves a byte between the row's endpoints. -/
theorem takeTurn_seq_byte {row : Row} {sp dp : Endpoint} (hmay : SeqMayMove s c)
    (hadm : rowAdmitted s.par (s.rowAddr c) = true) (hrow : s.readRow (s.rowAddr c) = row) (hwf : rowWellFormed row = true)
    (hwidth : cfgWidth row.cfg = 0) (hcount : (s.ch c).rem.toNat ≤ cfgCount row.cfg) (htrig : (s.ch c).trig = .i2cMst)
    (hsp : rowSource s.par row (s.ch c).rem = sp) (hdp : rowDest s.par row (s.ch c).rem = dp)
    (hsrc : sp.port = true ∨ memAdmit s.par sp.addr.toNat 1 = true)
    (hdst : dp.port = true ∨ memAdmit s.par dp.addr.toNat 1 = true) :
    ∃ v : Byte, takeTurn (.seq c) s = .next (byteMoved c sp dp v s) ∧ (sp.port = false → v = s.byteAt sp.addr.toNat) ∧
      (sp.port = true → s.me.full = true → v = s.me.dat) := by
  obtain ⟨v, hv, hmem, hdat⟩ := readEndpoint_byte sp s
  have hw : elemBytes (cfgWidth row.cfg) = 1 := by rw [hwidth]; rfl
  have hgood : rowAborts s c row = false :=
    rowAborts_eq_false hwf hcount (fun _ => ⟨hw, htrig⟩) (by rwa [hsp, hw]) (by rwa [hdp, hw])
  have hv8 : BitVec.ofNat 8 (v.toNat % 4294967296) = v := BitVec.eq_of_toNat_eq (by simp; omega)
  refine ⟨v, ?_, hmem, hdat⟩
  rw [takeTurn_seq_moves hmay hadm (hrow ▸ hgood), hrow, moveElement_eq c row s hsp hdp hw hv, byteMoved]
  simp [Memory.writeLE, hv8]

/-- The channels after the move of a byte (R148, R151). -/
theorem byteMoved_ch (hmay : SeqMayMove s c) (sp dp : Endpoint) (v : Byte) :
    (byteMoved c sp dp v s).ch c = { s.ch c with rem := (s.ch c).rem - 1, active := decide ((s.ch c).rem ≠ 1) } ∧
    OtherChansKept s (byteMoved c sp dp v s) c := by
  rw [← countedChan_of_active hmay.active]
  exact ch_of_chans_set rfl hmay.chExists

/-- A byte moved to the port leaves memory. -/
theorem byteMoved_kept {sp dp : Endpoint} (hp : dp.port = true) (v : Byte) : BytesKept s (byteMoved c sp dp v s) := fun x => by
  simp [State.byteAt, byteMoved, hp]

/-- A byte moved to memory is there, and is the only one that has changed (R72). -/
theorem byteMoved_stored {sp dp : Endpoint} (hp : dp.port = false) (hm : Memory.sorted s.mem) (v : Byte) :
    (byteMoved c sp dp v s).byteAt dp.addr.toNat = v ∧ BytesKeptOutside s (byteMoved c sp dp v s) dp.addr.toNat 1 := by
  have hmem : (byteMoved c sp dp v s).mem = s.mem.write dp.addr.toNat v := by simp [byteMoved, hp]
  refine ⟨?_, fun x hx => ?_⟩
  · rw [State.byteAt, hmem, read_write_same _ _ _ hm]
  · rw [State.byteAt, hmem, read_write_other _ _ _ _ (by omega), State.byteAt]

/-- The hazards of the move of a byte (R366, R367). -/
theorem byteMoved_notes (hmay : SeqMayMove s c) (sp dp : Endpoint) (v : Byte) :
    NotesMove s (byteMoved c sp dp v s) c (if sp.port = true then none else some sp.addr.toNat)
      (if dp.port = true then none else some dp.addr.toNat) 1 :=
  notesMove_of_haz (by decide) hmay.chExists rfl

/-- Only a read of the empty port uses up a draw (R78). -/
theorem byteMoved_draws {sp dp : Endpoint} {v : Byte} (h : sp.port = false ∨ s.me.full = true) :
    (byteMoved c sp dp v s).draws = s.draws := by
  rcases h with h | h <;> simp [byteMoved, h]

end

/-- The master registers after a byte has gone through the port, in the words of `PortRead` and `PortWrite` (R78). -/
theorem moved_me {sp dp : Bool} (hport : sp = true ∨ dp = true) (v : Byte) (m : Master) :
    writtenMaster dp v (readMaster sp m) =
      { m with dat := if dp = true then v else m.dat, full := dp, k := if sp = true then m.k + 1 else m.k } := by
  cases sp <;> cases dp <;> simp_all [writtenMaster, readMaster, byteTaken]

/-- An admitted address fits the address word (R72). -/
theorem toNat_ofNat_of_admit {p : Params} {a : Nat} (h : memAdmit p a 1 = true) : (BitVec.ofNat 32 a).toNat = a := by
  have := admit_inside h
  rw [BitVec.toNat_ofNat, Nat.mod_eq_of_lt (by omega)]

/-! ### The row of a running transaction -/

section
variable {p : Params} {m : Master} {r : Count}
  (hbuf : badMasterBuffer p m.ptr (BitVec.ofNat 32 m.len.toNat) = false) (h1 : 1 ≤ r.toNat) (hr : r.toNat ≤ m.len.toNat)

theorem masterTransfer_count (p : Params) (m : Master) : (masterTransfer p m).count.toNat = m.len.toNat := by
  have := m.len.isLt
  cases h : m.dir <;> simp [masterTransfer, h] <;> omega

/-- The buffer of a described transaction is no longer than `COUNT_MAX` and does not wrap (R191). -/
theorem buffer_bounds (hbuf : badMasterBuffer p m.ptr (BitVec.ofNat 32 m.len.toNat) = false) :
    m.len.toNat ≤ countMax ∧ m.ptr.toNat + m.len.toNat ≤ 2 ^ 32 := by
  have := m.len.isLt
  simp only [badMasterBuffer, BitVec.toNat_ofNat, Bool.or_eq_false_iff, decide_eq_false_iff_not] at hbuf
  omega

include hbuf h1 hr

/-- The byte of the buffer with `r` remaining (R109, R193). -/
theorem buffer_byte :
    elemAddr (endAddr m.ptr (m.len.setWidth 32) 0 true) r 0 true =
      BitVec.ofNat 32 (m.ptr.toNat + (m.len.toNat - r.toNat)) := by
  obtain ⟨hmax, hwrap⟩ := buffer_bounds hbuf
  have h := elemAddr_in_buffer hmax hwrap h1 hr
  rw [BitVec.ofNat_toNat] at h
  exact BitVec.eq_of_toNat_eq (by rw [h, BitVec.toNat_ofNat]; omega)

/-- A write transaction moves from the next byte of its buffer to the port (R193). -/
theorem masterRow_write (hd : m.dir = .w) :
    rowSource p (rowOf (masterTransfer p m)) r = ⟨BitVec.ofNat 32 (m.ptr.toNat + (m.len.toNat - r.toNat)), false⟩ ∧
    rowDest p (rowOf (masterTransfer p m)) r = ⟨p.aMstdat, true⟩ := by
  have hw : (masterTransfer p m).width < 4 := by rw [masterTransfer_width]; decide
  have hne := buffer_ne_port hbuf h1 hr
  simp only [rowSource, rowDest, rowOf, cfgWidth_cfgWord hw, cfgSrcInc_cfgWord hw, cfgDstInc_cfgWord hw]
  simp [masterTransfer, hd, elemAddr_fixed, hne, ← buffer_byte hbuf h1 hr]

/-- A read transaction moves from the port to the next place of its buffer (R193). -/
theorem masterRow_read (hd : m.dir = .r) :
    rowSource p (rowOf (masterTransfer p m)) r = ⟨p.aMstdat, true⟩ ∧
    rowDest p (rowOf (masterTransfer p m)) r = ⟨BitVec.ofNat 32 (m.ptr.toNat + (m.len.toNat - r.toNat)), false⟩ := by
  have hw : (masterTransfer p m).width < 4 := by rw [masterTransfer_width]; decide
  have hne := buffer_ne_port hbuf h1 hr
  simp only [rowSource, rowDest, rowOf, cfgWidth_cfgWord hw, cfgSrcInc_cfgWord hw, cfgDstInc_cfgWord hw]
  simp [masterTransfer, hd, elemAddr_fixed, hne, ← buffer_byte hbuf h1 hr]

/-- What the row of a transaction says: good, of bytes, and counting no fewer than remain (R149, R193). -/
theorem masterRow_good :
    rowWellFormed (rowOf (masterTransfer p m)) = true ∧ cfgWidth (rowOf (masterTransfer p m)).cfg = 0 ∧
    r.toNat ≤ cfgCount (rowOf (masterTransfer p m)).cfg := by
  have hmax := (buffer_bounds hbuf).1
  have hw : (masterTransfer p m).width < 3 := by rw [masterTransfer_width]; decide
  have hcount := masterTransfer_count p m
  refine ⟨rowWellFormed_rowOf hw (by omega) (by omega),
    (cfgWidth_cfgWord (by omega)).trans (masterTransfer_width p m), ?_⟩
  rw [cfgCount_rowOf hw (by omega) (by omega), hcount]
  exact hr

end

section
variable {s : State} {a : Nat} (hmay : SeqMayMove s s.me.ch) (htrig : (s.ch s.me.ch).trig = .i2cMst)
  (hadm : rowAdmitted s.par (s.rowAddr s.me.ch) = true)
  (hrow : s.readRow (s.rowAddr s.me.ch) = rowOf (masterTransfer s.par s.me))
  (hbuf : badMasterBuffer s.par s.me.ptr (BitVec.ofNat 32 s.me.len.toNat) = false)
  (h1 : 1 ≤ (s.ch s.me.ch).rem.toNat) (hr : (s.ch s.me.ch).rem.toNat ≤ s.me.len.toNat)
  (ha : a = s.me.ptr.toNat + (s.me.len.toNat - (s.ch s.me.ch).rem.toNat)) (hat : memAdmit s.par a 1 = true)
include hmay htrig hadm hrow hbuf h1 hr ha hat

/-- The element step of a write transaction loads the next byte of the buffer into the port (R193, R196). -/
theorem takeTurn_seq_loads (hd : s.me.dir = .w) :
    takeTurn (.seq s.me.ch) s =
      .next (byteMoved s.me.ch ⟨BitVec.ofNat 32 a, false⟩ ⟨s.par.aMstdat, true⟩ (s.byteAt a) s) := by
  subst ha
  obtain ⟨hwf, hwidth, hcount⟩ := masterRow_good hbuf h1 hr
  obtain ⟨hsp, hdp⟩ := masterRow_write hbuf h1 hr hd
  have hto := toNat_ofNat_of_admit hat
  obtain ⟨v, ht, hv, -⟩ :=
    takeTurn_seq_byte hmay hadm hrow hwf hwidth hcount htrig hsp hdp (.inr (hto.symm ▸ hat)) (.inl rfl)
  rw [ht, hv rfl, hto]

/-- The element step of a read transaction stores the byte of the port at the next place of the buffer (R193, R196). -/
theorem takeTurn_seq_stores (hd : s.me.dir = .r) (hf : s.me.full = true) :
    takeTurn (.seq s.me.ch) s =
      .next (byteMoved s.me.ch ⟨s.par.aMstdat, true⟩ ⟨BitVec.ofNat 32 a, false⟩ s.me.dat s) := by
  subst ha
  obtain ⟨hwf, hwidth, hcount⟩ := masterRow_good hbuf h1 hr
  obtain ⟨hsp, hdp⟩ := masterRow_read hbuf h1 hr hd
  have hto := toNat_ofNat_of_admit hat
  obtain ⟨v, ht, -, hv⟩ :=
    takeTurn_seq_byte hmay hadm hrow hwf hwidth hcount htrig hsp hdp (.inl rfl) (.inr (hto.symm ▸ hat))
  rw [ht, hv rfl hf]

end

end Sys2Proof.Machine

open Sys2Proof Sys2Proof.Machine

/-- Settles O40: `takeTurn_seq_byte` with any row of bytes, and with the row of each direction of a transaction. -/
theorem masterElementStepMovesAByteThroughThePort : Obligations.MasterElementStepMovesAByteThroughThePort := by
  refine ⟨?_, ?_⟩
  · intro c s hmay hadm hmem row r step32 sa da sp dp hwf hwidth hcount htrig hport hsrc hdst
    have hsp : rowSource s.par row r = ⟨sa, sp⟩ := by
      simp only [rowSource, hwidth, elemAddr_byte]
      rfl
    have hdp : rowDest s.par row r = ⟨da, dp⟩ := by
      simp only [rowDest, hwidth, elemAddr_byte]
      rfl
    clear_value sp dp sa da
    obtain ⟨v, ht, hv, hdat⟩ := takeTurn_seq_byte hmay hadm rfl hwf hwidth hcount htrig hsp hdp hsrc hdst
    obtain ⟨hch, hothers⟩ := byteMoved_ch hmay ⟨sa, sp⟩ ⟨da, dp⟩ v
    have hnotes := byteMoved_notes hmay ⟨sa, sp⟩ ⟨da, dp⟩ v
    exact ⟨v, _, ht, hv, hdat, moved_me hport v s.me, fun hp => byteMoved_kept hp v, fun hp => byteMoved_stored hp hmem.1 v,
      hch, hothers, hnotes, fun h => byteMoved_draws h, rfl⟩
  · intro s c at' hmay htrig hadm hrow hmem hbuf h1 hr hat
    have hto := toNat_ofNat_of_admit hat
    obtain ⟨-, ⟨hd, hf⟩ | ⟨hd, hf⟩⟩ := hmay.request htrig
    · obtain ⟨hch, hothers⟩ := byteMoved_ch hmay ⟨BitVec.ofNat 32 at', false⟩ ⟨s.par.aMstdat, true⟩ (s.byteAt at')
      have hnotes := byteMoved_notes hmay ⟨BitVec.ofNat 32 at', false⟩ ⟨s.par.aMstdat, true⟩ (s.byteAt at')
      rw [hto] at hnotes
      exact ⟨_, takeTurn_seq_loads hmay htrig hadm hrow hbuf h1 hr rfl hat hd, fun _ => ⟨rfl, byteMoved_kept rfl _, rfl, hnotes⟩,
        fun h => absurd (hd.symm.trans h) nofun, hch, hothers, rfl, rfl, rfl, rfl⟩
    · obtain ⟨hch, hothers⟩ := byteMoved_ch hmay ⟨s.par.aMstdat, true⟩ ⟨BitVec.ofNat 32 at', false⟩ s.me.dat
      have hnotes := byteMoved_notes hmay ⟨s.par.aMstdat, true⟩ ⟨BitVec.ofNat 32 at', false⟩ s.me.dat
      obtain ⟨hbyte, hkept⟩ := byteMoved_stored (c := c) (sp := ⟨s.par.aMstdat, true⟩) (dp := ⟨BitVec.ofNat 32 at', false⟩)
        rfl hmem.1 s.me.dat
      rw [hto] at hnotes hbyte hkept
      exact ⟨_, takeTurn_seq_stores hmay htrig hadm hrow hbuf h1 hr rfl hat hd hf, fun h => absurd (hd.symm.trans h) nofun,
        fun _ => ⟨rfl, hbyte, hkept, rfl, hnotes⟩, hch, hothers, rfl, rfl, rfl, byteMoved_draws (.inr hf)⟩

end

section
/-! PROOFS. A memory-to-memory Transfer is copied whole (R82, R83, R151): the elements of a span, the memory that copying them one
after the other leaves, and the state after each element step from CH.ARM to the last element. -/

namespace Sys2Proof.Machine

/-! ### The elements of a span -/

/-- The address of element `k` of an endpoint of a Transfer: incrementing or fixed (R109). -/
def elemAt (start : Nat) (inc : Bool) (w k : Nat) : Nat := start + if inc = true then k * w else 0

/-- The bytes an endpoint of `count` elements covers (R143 item 5). -/
def spanLen (inc : Bool) (count w : Nat) : Nat := if inc = true then count * w else w

theorem srcSpan_eq (x : Transfer) : srcSpan x = spanLen x.srcInc x.count.toNat (elemBytes x.width) := rfl

theorem dstSpan_eq (x : Transfer) : dstSpan x = spanLen x.dstInc x.count.toNat (elemBytes x.width) := rfl

section
variable {start count w k : Nat} {inc : Bool}

/-- Every element lies in the span. -/
theorem elemAt_inside (hk : k < count) :
    start ≤ elemAt start inc w k ∧ elemAt start inc w k + w ≤ start + spanLen inc count w := by
  have h : k * w + w ≤ count * w := by
    rw [← Nat.succ_mul]
    exact Nat.mul_le_mul_right w hk
  cases inc with
  | false => simp [elemAt, spanLen]
  | true =>
    simp only [elemAt, spanLen, if_true]
    omega

/-- The elements of an incrementing endpoint follow one another. -/
theorem elemAt_before {i : Nat} (hi : i < k) : elemAt start true w i + w ≤ elemAt start true w k := by
  have h : i * w + w ≤ k * w := by
    rw [← Nat.succ_mul]
    exact Nat.mul_le_mul_right w hi
  simp only [elemAt, if_true]
  omega

/-- Every byte of the span belongs to an element. -/
theorem exists_elemAt {y : Nat} (hc : 0 < count) (hw : 0 < w) (h1 : start ≤ y) (h2 : y < start + spanLen inc count w) :
    ∃ k < count, elemAt start inc w k ≤ y ∧ y < elemAt start inc w k + w := by
  cases inc with
  | false => exact ⟨0, hc, by simpa [elemAt] using h1, by simpa [elemAt, spanLen] using h2⟩
  | true =>
    simp only [spanLen, if_true] at h2
    have hdiv := Nat.div_add_mod (y - start) w
    have hmod := Nat.mod_lt (y - start) hw
    rw [Nat.mul_comm] at hdiv
    refine ⟨(y - start) / w, Nat.div_lt_of_lt_mul (by rw [Nat.mul_comm]; omega), ?_, ?_⟩ <;>
      simp only [elemAt, if_true] <;> omega

/-- A region shares a byte with the span exactly when it shares one with an element (R367). -/
theorem sharesByte_span_iff (hc : 0 < count) (hw : 0 < w) (r : Region) :
    SharesByte start (spanLen inc count w) r ↔ ∃ k < count, SharesByte (elemAt start inc w k) w r := by
  constructor
  · rintro ⟨y, ⟨h1, h2⟩, hr⟩
    obtain ⟨k, hk, hlo, hhi⟩ := exists_elemAt hc hw h1 h2
    exact ⟨k, hk, y, ⟨hlo, hhi⟩, hr⟩
  · rintro ⟨k, hk, y, ⟨h1, h2⟩, hr⟩
    have := elemAt_inside (start := start) (w := w) (inc := inc) hk
    exact ⟨y, by omega, hr⟩

end

/-! ### Copying elements in memory -/

theorem readLE_lt (m : Memory) (a n : Nat) : m.readLE a n < 256 ^ n := by
  induction n generalizing a with
  | zero => simp [Memory.readLE]
  | succ n ih =>
    have := ih (a + 1)
    have := (m.read a).isLt
    rw [Memory.readLE, pow_succ']
    omega

/-- The bytes of a wide read (R71). -/
theorem readLE_byte (m : Memory) {a n j : Nat} (hj : j < n) : m.readLE a n / 256 ^ j % 256 = (m.read (a + j)).toNat := by
  induction n generalizing a j with
  | zero => omega
  | succ n ih =>
    have hb := (m.read a).isLt
    rw [Memory.readLE]
    cases j with
    | zero =>
      simp only [pow_zero, Nat.div_one, Nat.add_zero]
      omega
    | succ j =>
      rw [pow_succ', ← Nat.div_div_eq_div_mul, show (_ + 256 * _) / 256 = m.readLE (a + 1) n by omega, ih (by omega),
        show a + 1 + j = a + (j + 1) by omega]

/-- A read of at most a word keeps all its bytes (R72). -/
theorem memRead_toNat (s : State) (a : Nat) {n : Nat} (hn : n ≤ 4) : (s.memRead a n).toNat = s.mem.readLE a n := by
  have h := readLE_lt s.mem a n
  have hp : 256 ^ n ≤ 256 ^ 4 := Nat.pow_le_pow_right (by decide) hn
  rw [State.memRead, BitVec.toNat_ofNat, Nat.mod_eq_of_lt (by omega)]

/-- Memory after `k` elements of `w` bytes have been copied in order, each as it was at the start. -/
def copiedMem (src dst : Nat → Nat) (w : Nat) (m : Memory) : Nat → Memory
  | 0 => m
  | k + 1 => (copiedMem src dst w m k).writeLE (dst k) w (m.readLE (src k) w)

section
variable {src dst : Nat → Nat} {w : Nat} {m : Memory} {k : Nat}

theorem copiedMem_sorted (hm : Memory.sorted m) (k : Nat) : Memory.sorted (copiedMem src dst w m k) := by
  induction k with
  | zero => exact hm
  | succ k ih => exact writeLE_sorted _ _ _ _ ih

/-- A byte no element is copied to is as before. -/
theorem read_copiedMem_outside {y : Nat} (h : ∀ i < k, y < dst i ∨ dst i + w ≤ y) :
    (copiedMem src dst w m k).read y = m.read y := by
  induction k with
  | zero => rfl
  | succ k ih => rw [copiedMem, read_writeLE_other _ _ _ _ _ (h k (by omega)), ih fun i hi => h i (by omega)]

/-- An element that no later one overwrites holds its source. -/
theorem read_copiedMem_elem (hm : Memory.sorted m) {i j : Nat} (hi : i < k) (hj : j < w)
    (hlast : ∀ l, i < l → l < k → dst i + w ≤ dst l) : (copiedMem src dst w m k).read (dst i + j) = m.read (src i + j) := by
  induction k with
  | zero => omega
  | succ k ih =>
    rw [copiedMem]
    obtain rfl | hik := Nat.eq_or_lt_of_le (Nat.le_of_lt_succ hi)
    · refine BitVec.eq_of_toNat_eq ?_
      rw [read_writeLE_at (copiedMem_sorted hm i) hj, readLE_byte m hj]
    · have := hlast k hik (by omega)
      rw [read_writeLE_other _ _ _ _ _ (by omega), ih hik fun l h1 h2 => hlast l h1 (by omega)]

end

theorem writeRow_sorted {s : State} (hm : Memory.sorted s.mem) (a : Nat) (r : Row) : Memory.sorted (s.writeRow a r).mem := by
  simp only [State.writeRow, memWrite_mem]
  exact writeLE_sorted _ _ _ _ (writeLE_sorted _ _ _ _ (writeLE_sorted _ _ _ _ (writeLE_sorted _ _ _ _ hm)))

/-! ### The state between two element steps -/

/-- Where the elements of a Transfer's source and destination stand (R109). -/
def srcAt (x : Transfer) : Nat → Nat := elemAt x.src.toNat x.srcInc (elemBytes x.width)
def dstAt (x : Transfer) : Nat → Nat := elemAt x.dst.toNat x.dstInc (elemBytes x.width)

/-- The registers of the channel after `k` elements (R148, R151). -/
def copyingChan (x : Transfer) (k : Nat) : Chan :=
  { armedChan x with rem := BitVec.ofNat 11 (x.count.toNat - k), active := decide (k < x.count.toNat) }

/-- Does the move of element `k` touch a region of another Transfer in flight (R367)? -/
def moveAliases (s : State) (c : ChIdx) (x : Transfer) (k : Nat) : Bool :=
  s.readAliases c (srcAt x k) (elemBytes x.width) || s.writeAliases c (dstAt x k) (elemBytes x.width)

/-- The record of the move of element `k` (R36, R148). -/
def moveRec (s : State) (c : ChIdx) (x : Transfer) (k : Nat) : Rec :=
  .dma c (BitVec.ofNat 32 (srcAt x k)) (BitVec.ofNat 32 (dstAt x k)) (elemBytes x.width) (s.memRead (srcAt x k) (elemBytes x.width))

/-- The state after `k` elements of Transfer `x` on channel `c`, armed in `s`. -/
def copying (c : ChIdx) (x : Transfer) (s : State) (k : Nat) : State :=
  { s with
    mem := copiedMem (srcAt x) (dstAt x) (elemBytes x.width) s.mem k
    chans := s.chans.set c.toNat (copyingChan x k)
    haz := ⟨s.haz.descWrite, s.haz.bufferAlias || (List.range k).any (moveAliases s c x)⟩
    trace := s.trace ++ (List.range k).map (moveRec s c x) }

/-- Channel `c` is armed with a memory-to-memory Transfer whose buffers are admitted, apart from each other and the destination
apart from the table. -/
structure ReadyToCopy (c : ChIdx) (x : Transfer) (s : State) : Prop where
  clk : s.inp.clkDma = true
  en : s.dcm.en = true
  inTable : c.toNat < s.nCh
  chan : s.ch c = armedChan x
  row : s.readRow (s.rowAddr c) = rowOf x
  rowAdm : rowAdmitted s.par (s.rowAddr c) = true
  valid : validTransfer s.par x false = true
  srcAdm : memAdmit s.par x.src.toNat (srcSpan x) = true
  dstAdm : memAdmit s.par x.dst.toNat (dstSpan x) = true
  buffers : x.src.toNat + srcSpan x ≤ x.dst.toNat ∨ x.dst.toNat + dstSpan x ≤ x.src.toNat
  table : x.dst.toNat + dstSpan x ≤ s.dcm.base.toNat ∨ s.dcm.base.toNat + 16 * s.nCh ≤ x.dst.toNat
  sorted : Memory.sorted s.mem

theorem elemBytes_bounds {width : Nat} (hw : width < 3) : 0 < elemBytes width ∧ elemBytes width ≤ 4 := by
  interval_cases width <;> decide

/-- An endpoint of a built row whose span does not hold the port is the element in memory (R109, R148). -/
theorem elemAddr_elemAt {p : Params} {start count : Word} {width k : Nat} {inc : Bool} (hw : width < 3)
    (hmax : count.toNat ≤ countMax) (hk : k < count.toNat)
    (hwrap : start.toNat + spanLen inc count.toNat (elemBytes width) ≤ 2 ^ 32)
    (hport : spanContains start (spanLen inc count.toNat (elemBytes width)) p.aMstdat = false) :
    elemAddr (endAddr start count width inc) (BitVec.ofNat 11 (count.toNat - k)) width inc =
        BitVec.ofNat 32 (elemAt start.toNat inc (elemBytes width) k) ∧
      (BitVec.ofNat 32 (elemAt start.toNat inc (elemBytes width) k)).toNat = elemAt start.toNat inc (elemBytes width) k ∧
      BitVec.ofNat 32 (elemAt start.toNat inc (elemBytes width) k) ≠ p.aMstdat := by
  have hin := elemAt_inside (start := start.toNat) (inc := inc) (w := elemBytes width) hk
  have hpos := (elemBytes_bounds hw).1
  have hr : (BitVec.ofNat 11 (count.toNat - k)).toNat = count.toNat - k := by
    simp only [countMax] at hmax
    rw [BitVec.toNat_ofNat, Nat.mod_eq_of_lt (by omega)]
  have hto : (BitVec.ofNat 32 (elemAt start.toNat inc (elemBytes width) k)).toNat =
      elemAt start.toNat inc (elemBytes width) k := by
    rw [BitVec.toNat_ofNat, Nat.mod_eq_of_lt (by omega)]
  refine ⟨BitVec.eq_of_toNat_eq ?_, hto, fun e => ?_⟩
  · rw [hto, elemAddr_endAddr_toNat hw hmax (fun hi => by simpa [spanLen, hi] using hwrap) (by omega) (by omega), hr,
      show count.toNat - (count.toNat - k) = k by omega, elemAt]
  · refine absurd ((spanContains_iff start _ p.aMstdat).2 ?_) (by rw [hport]; nofun)
    rw [← e, hto]
    omega

section
variable {c : ChIdx} {x : Transfer} {s : State} {k : Nat}

/-- The source of element `k` in the row of a valid Transfer (R148). -/
theorem rowSource_rowOf {p : Params} (hx : validTransfer p x false = true) (hk : k < x.count.toNat) :
    rowSource p (rowOf x) (BitVec.ofNat 11 (x.count.toNat - k)) = ⟨BitVec.ofNat 32 (srcAt x k), false⟩ ∧
    (BitVec.ofNat 32 (srcAt x k)).toNat = srcAt x k := by
  obtain ⟨hw, ⟨-, hmax⟩, -, -, -, ⟨hwrap, -⟩, hport⟩ := (validTransfer_iff p x false).1 hx
  obtain ⟨he, hto, hne⟩ := elemAddr_elemAt hw hmax hk hwrap (hport rfl).1
  refine ⟨?_, hto⟩
  simp only [rowSource, rowOf, cfgWidth_cfgWord (show x.width < 4 by omega), cfgSrcInc_cfgWord (show x.width < 4 by omega), he]
  simp [srcAt, hne]

/-- The destination of element `k` in the row of a valid Transfer (R148). -/
theorem rowDest_rowOf {p : Params} (hx : validTransfer p x false = true) (hk : k < x.count.toNat) :
    rowDest p (rowOf x) (BitVec.ofNat 11 (x.count.toNat - k)) = ⟨BitVec.ofNat 32 (dstAt x k), false⟩ ∧
    (BitVec.ofNat 32 (dstAt x k)).toNat = dstAt x k := by
  obtain ⟨hw, ⟨-, hmax⟩, -, -, -, ⟨-, hwrap⟩, hport⟩ := (validTransfer_iff p x false).1 hx
  obtain ⟨he, hto, hne⟩ := elemAddr_elemAt hw hmax hk hwrap (hport rfl).2
  refine ⟨?_, hto⟩
  simp only [rowDest, rowOf, cfgWidth_cfgWord (show x.width < 4 by omega), cfgDstInc_cfgWord (show x.width < 4 by omega), he]
  simp [dstAt, hne]

/-- One element is counted; the last one clears the active flag (R148, R151). -/
theorem countedChan_copyingChan (hmax : x.count.toNat ≤ countMax) (hk : k < x.count.toNat) :
    countedChan (copyingChan x k) = copyingChan x (k + 1) := by
  simp only [countMax] at hmax
  have hrem : BitVec.ofNat 11 (x.count.toNat - k) - 1 = BitVec.ofNat 11 (x.count.toNat - (k + 1)) := by
    refine BitVec.eq_of_toNat_eq ?_
    simp only [BitVec.toNat_sub, BitVec.ofNat_eq_ofNat, BitVec.toNat_ofNat]
    omega
  have hlast : BitVec.ofNat 11 (x.count.toNat - (k + 1)) ≠ 0 ↔ k + 1 < x.count.toNat := by
    rw [ne_eq, ← BitVec.toNat_inj]
    simp only [BitVec.ofNat_eq_ofNat, BitVec.toNat_ofNat]
    omega
  simp only [countedChan, copyingChan, hrem, hlast, decide_eq_true hk, Bool.true_and]

/-- The hazard tests of a channel's move look at the other channels only (R367). -/
theorem moveTests_of_others {t : State} {n : Nat} (hn : 0 < n) (h : ∀ k, k ≠ c.toNat → t.chans[k]? = s.chans[k]?) (a : Nat) :
    t.readAliases c a n = s.readAliases c a n ∧ t.writeAliases c a n = s.writeAliases c a n := by
  have hiff : ∀ P : Chan → Prop, (∃ (k : Nat) (y : Chan), t.chans[k]? = some y ∧ k ≠ c.toNat ∧ P y) ↔
      ∃ (k : Nat) (y : Chan), s.chans[k]? = some y ∧ k ≠ c.toNat ∧ P y := fun P =>
    exists_congr fun k => exists_congr fun y => and_congr_left fun ⟨hk, _⟩ => by rw [h k hk]
  exact ⟨Bool.eq_iff_iff.2 (by rw [readAliases_iff t c a n hn, readAliases_iff s c a n hn, hiff]),
    Bool.eq_iff_iff.2 (by rw [writeAliases_iff t c a n hn, writeAliases_iff s c a n hn, hiff])⟩

theorem moveAliases_of_others {t : State} (hw : x.width < 3) (h : ∀ k, k ≠ c.toNat → t.chans[k]? = s.chans[k]?) (k : Nat) :
    moveAliases t c x k = moveAliases s c x k := by
  have hpos := (elemBytes_bounds hw).1
  rw [moveAliases, (moveTests_of_others hpos h _).1, (moveTests_of_others hpos h _).2, moveAliases]

/-- Outside the destination every byte is as before. -/
theorem byteAt_copying (hk : k ≤ x.count.toNat) {y : Nat} (hy : y < x.dst.toNat ∨ x.dst.toNat + dstSpan x ≤ y) :
    (copying c x s k).byteAt y = s.byteAt y :=
  read_copiedMem_outside fun i hi => by
    have := elemAt_inside (start := x.dst.toNat) (inc := x.dstInc) (w := elemBytes x.width) (Nat.lt_of_lt_of_le hi hk)
    rw [dstSpan_eq] at hy
    simp only [dstAt]
    omega

namespace ReadyToCopy

variable (h : ReadyToCopy c x s)
include h

theorem width : x.width < 3 := ((validTransfer_iff _ _ _).1 h.valid).1

theorem count : 1 ≤ x.count.toNat ∧ x.count.toNat ≤ countMax := by
  obtain ⟨-, hcount, -⟩ := (validTransfer_iff _ _ _).1 h.valid
  exact hcount

/-- Nothing has moved yet. -/
theorem copying_zero : copying c x s 0 = s := by
  have hch : s.chans.set c.toNat (copyingChan x 0) = s.chans := by
    have hpos : 0 < x.count.toNat := h.count.1
    have he : copyingChan x 0 = armedChan x := by
      simp [copyingChan, armedChan, hpos]
    rw [he, ← h.chan]
    refine List.ext_getElem? fun i => ?_
    have := h.inTable
    rw [List.getElem?_set]
    split_ifs with h1 h2
    · subst h1
      simp [State.ch, List.getD_eq_getElem?_getD, List.getElem?_eq_getElem h2]
    · exact absurd this h2
    · rfl
  simp [copying, copiedMem, hch]

theorem ch_copying : (copying c x s k).ch c = copyingChan x k ∧ OtherChansKept s (copying c x s k) c :=
  ch_of_chans_set rfl h.inTable

theorem readRow_copying (hk : k ≤ x.count.toNat) : (copying c x s k).readRow (s.rowAddr c) = rowOf x := by
  rw [← h.row]
  refine readRow_of_bytes fun y h1 h2 => byteAt_copying hk ?_
  have := h.table
  have := h.inTable
  simp only [State.rowAddr, descRowBytes, chSlot] at h1 h2
  omega

/-- The source of every element reads as at the start. -/
theorem memRead_copying (hk : k < x.count.toNat) :
    (copying c x s k).memRead (srcAt x k) (elemBytes x.width) = s.memRead (srcAt x k) (elemBytes x.width) := by
  rw [State.memRead, State.memRead, readLE_congr fun y h1 h2 => byteAt_copying (Nat.le_of_lt hk) ?_]
  have := elemAt_inside (start := x.src.toNat) (inc := x.srcInc) (w := elemBytes x.width) hk
  have := h.buffers
  rw [srcSpan_eq] at this
  simp only [srcAt] at h1 h2
  omega

theorem seqMayMove (hk : k < x.count.toNat) : SeqMayMove (copying c x s k) c := by
  obtain ⟨-, -, htrig, -⟩ := (validTransfer_iff _ _ _).1 h.valid
  rw [SeqMayMove, (h.ch_copying).1]
  exact ⟨h.en, h.clk, rfl, decide_eq_true hk, rfl, .inl (by simp [copyingChan, armedChan, trigOfCode, htrig rfl])⟩

/-- The endpoints the element step finds in the row (R148). -/
theorem endpoints_copying (hk : k < x.count.toNat) :
    rowSource (copying c x s k).par (rowOf x) ((copying c x s k).ch c).rem = ⟨BitVec.ofNat 32 (srcAt x k), false⟩ ∧
    rowDest (copying c x s k).par (rowOf x) ((copying c x s k).ch c).rem = ⟨BitVec.ofNat 32 (dstAt x k), false⟩ := by
  rw [(h.ch_copying).1]
  exact ⟨(rowSource_rowOf h.valid hk).1, (rowDest_rowOf h.valid hk).1⟩

theorem cfgWidth_row : cfgWidth (rowOf x).cfg = x.width := by
  have := h.width
  exact cfgWidth_cfgWord (by omega)

/-- The row does not abort at any element. -/
theorem rowAborts_copying (hk : k < x.count.toNat) : rowAborts (copying c x s k) c (rowOf x) = false := by
  obtain ⟨h1, hmax⟩ := h.count
  obtain ⟨hsp, hdp⟩ := h.endpoints_copying hk
  have hsrcIn := elemAt_inside (start := x.src.toNat) (inc := x.srcInc) (w := elemBytes x.width) hk
  have hdstIn := elemAt_inside (start := x.dst.toNat) (inc := x.dstInc) (w := elemBytes x.width) hk
  refine rowAborts_eq_false (rowWellFormed_rowOf h.width h1 hmax) ?_ ?_ (.inr ?_) (.inr ?_)
  · rw [(h.ch_copying).1, cfgCount_rowOf h.width h1 hmax, copyingChan, BitVec.toNat_ofNat]
    exact (Nat.mod_le _ _).trans (Nat.sub_le _ _)
  · rw [hsp, hdp]
    rintro (e | e) <;> cases e
  · rw [hsp, (rowSource_rowOf h.valid hk).2, h.cfgWidth_row]
    exact admit_sub h.srcAdm hsrcIn.1 hsrcIn.2
  · rw [hdp, (rowDest_rowOf h.valid hk).2, h.cfgWidth_row]
    exact admit_sub h.dstAdm hdstIn.1 hdstIn.2

/-- The hazards of the move of element `k`: the destination is apart from the table (R366, R367). -/
theorem noteMove_copying (hk : k < x.count.toNat) :
    (noteMove c ⟨BitVec.ofNat 32 (srcAt x k), false⟩ ⟨BitVec.ofNat 32 (dstAt x k), false⟩ (elemBytes x.width)
      (copying c x s k)).haz = (copying c x s (k + 1)).haz := by
  have hin := elemAt_inside (start := x.dst.toNat) (inc := x.dstInc) (w := elemBytes x.width) hk
  have hn : (copying c x s k).nCh = s.nCh := by simp [State.nCh, copying]
  have htable : (copying c x s k).hitsTable (dstAt x k) (elemBytes x.width) = false := by
    have := h.table
    rw [dstSpan_eq] at this
    rw [State.hitsTable, State.tableBytes, hn, ← Bool.not_eq_true, Bool.and_eq_true, Bool.and_eq_true, decide_eq_true_eq,
      decide_eq_true_eq, descRowBytes, dstAt]
    rintro ⟨⟨-, hlo⟩, hhi⟩
    change _ < s.dcm.base.toNat + _ at hlo
    change s.dcm.base.toNat < _ at hhi
    omega
  have hother : ∀ i, i ≠ c.toNat → (copying c x s k).chans[i]? = s.chans[i]? := fun i hi =>
    List.getElem?_set_ne (Ne.symm hi)
  have hmove : moveAliases (copying c x s k) c x k = moveAliases s c x k := moveAliases_of_others h.width hother k
  rw [moveAliases] at hmove
  rw [noteMove, noteHaz_haz, (rowSource_rowOf h.valid hk).2, (rowDest_rowOf h.valid hk).2, htable]
  simp only [Bool.not_false, Bool.true_and, Bool.or_false, hmove]
  simp [copying, List.range_succ, Bool.or_assoc]

/-- One element step copies one element. -/
theorem takeTurn_copying (hk : k < x.count.toNat) :
    takeTurn (.seq c) (copying c x s k) = .next (copying c x s (k + 1)) := by
  have hrow := h.readRow_copying (Nat.le_of_lt hk)
  have haddr : (copying c x s k).rowAddr c = s.rowAddr c := rfl
  obtain ⟨hsp, hdp⟩ := h.endpoints_copying hk
  have hread := h.memRead_copying hk
  have hchan := countedChan_copyingChan h.count.2 hk
  rw [takeTurn_seq_moves (h.seqMayMove hk) h.rowAdm (by rw [haddr, hrow]; exact h.rowAborts_copying hk), haddr, hrow,
    moveElement_eq c (rowOf x) _ hsp hdp (w := elemBytes x.width) (by rw [h.cfgWidth_row])
      (v := s.memRead (srcAt x k) (elemBytes x.width)) ?_]
  · rw [h.noteMove_copying hk, (h.ch_copying).1, hchan, (rowDest_rowOf h.valid hk).2, memRead_toNat s _ (elemBytes_bounds h.width).2]
    simp [copying, List.range_succ, copiedMem, moveRec, writtenMaster, readMaster, State.memRead]
  · rw [readEndpoint, if_neg nofun, (rowSource_rowOf h.valid hk).2, hread]

/-- As many element steps as there are elements left. -/
theorem takeTurns_copying (n : Nat) (hn : k + n ≤ x.count.toNat) :
    takeTurns (List.replicate n (.seq c)) (copying c x s k) = some (copying c x s (k + n)) := by
  induction n generalizing k with
  | zero => rfl
  | succ n ih =>
    rw [List.replicate_succ, takeTurns, h.takeTurn_copying (by omega)]
    exact (ih (by omega)).trans (by rw [Nat.add_right_comm, Nat.add_assoc])

/-- Each destination element holds the source element written there last. -/
theorem byteAt_copied {i j : Nat} (hi : i < x.count.toNat) (hj : j < elemBytes x.width)
    (hlast : x.dstInc = true ∨ i + 1 = x.count.toNat) :
    (copying c x s x.count.toNat).byteAt (dstAt x i + j) = s.byteAt (srcAt x i + j) := by
  refine read_copiedMem_elem h.sorted hi hj fun l h1 h2 => ?_
  rcases hlast with hinc | hlast
  · simp only [dstAt, hinc]
    exact elemAt_before h1
  · omega

/-- The registers of the channel when all elements have moved (R151). -/
theorem copyingChan_count :
    copyingChan x x.count.toNat =
      { own := .xfer, enabled := true, trig := .sw, active := false, err := .none, rem := 0,
        src := ⟨x.src, BitVec.ofNat 32 (srcSpan x)⟩, dst := ⟨x.dst, BitVec.ofNat 32 (dstSpan x)⟩ } := by
  obtain ⟨-, -, htrig, -⟩ := (validTransfer_iff _ _ _).1 h.valid
  simp [copyingChan, armedChan, trigOfCode, htrig rfl]

end ReadyToCopy

/-! ### The whole Transfer -/

/-- The moves of a Transfer touch a region in flight exactly when its buffers share a byte with it (R367). -/
theorem any_moveAliases_iff (hw : x.width < 3) (hcount : 0 < x.count.toNat) :
    (List.range x.count.toNat).any (moveAliases s c x) = true ↔
      ∃ (k : Nat) (y : Chan), s.chans[k]? = some y ∧ k ≠ c.toNat ∧ y.own = .xfer ∧
        (SharesByte x.src.toNat (srcSpan x) y.dst ∨ SharesByte x.dst.toNat (dstSpan x) y.src ∨
          SharesByte x.dst.toNat (dstSpan x) y.dst) := by
  have hpos := (elemBytes_bounds hw).1
  have hsrc := sharesByte_span_iff (start := x.src.toNat) (inc := x.srcInc) hcount hpos
  have hdst := sharesByte_span_iff (start := x.dst.toNat) (inc := x.dstInc) hcount hpos
  simp only [List.any_eq_true, List.mem_range, moveAliases, Bool.or_eq_true, readAliases_iff s c _ _ hpos,
    writeAliases_iff s c _ _ hpos, srcSpan_eq, dstSpan_eq, hsrc, hdst, srcAt, dstAt]
  constructor
  · rintro ⟨i, hi, ⟨k, y, hy, hk, hown, h⟩ | ⟨k, y, hy, hk, hown, h | h⟩⟩
    · exact ⟨k, y, hy, hk, hown, .inl ⟨i, hi, h⟩⟩
    · exact ⟨k, y, hy, hk, hown, .inr (.inl ⟨i, hi, h⟩)⟩
    · exact ⟨k, y, hy, hk, hown, .inr (.inr ⟨i, hi, h⟩)⟩
  · rintro ⟨k, y, hy, hk, hown, ⟨i, hi, h⟩ | ⟨i, hi, h⟩ | ⟨i, hi, h⟩⟩
    · exact ⟨i, hi, .inl ⟨k, y, hy, hk, hown, h⟩⟩
    · exact ⟨i, hi, .inr ⟨k, y, hy, hk, hown, .inl h⟩⟩
    · exact ⟨i, hi, .inr ⟨k, y, hy, hk, hown, .inr h⟩⟩

theorem dstSpan_lt (hw : x.width < 3) (hmax : x.count.toNat ≤ countMax) : dstSpan x < 2 ^ 32 := by
  have hle : x.count.toNat * elemBytes x.width ≤ 1024 * 4 := Nat.mul_le_mul hmax (elemBytes_bounds hw).2
  have := (elemBytes_bounds hw).2
  unfold dstSpan
  split_ifs <;> omega

/-- The state CH.ARM of a valid Transfer leaves (R144, R145, R367). -/
def armedState (c : ChIdx) (x : Transfer) (s : State) : State :=
  { s with
    mem := (s.writeRow (s.rowAddr c) (rowOf x)).mem
    chans := s.chans.set c.toNat (armedChan x)
    haz := (noteArm c ((s.writeRow (s.rowAddr c) (rowOf x)).setCh c (armedChan x))).haz
    trace := s.trace ++ [opRec (.chArm c x) s (reply c 0 0x00)] }

theorem setMem_setMem (s : State) (m m' : Memory) : (s.setMem m).setMem m' = s.setMem m' := rfl

/-- Building a row writes memory only (R144). -/
theorem writeRow_eq (s : State) (a : Nat) (r : Row) : s.writeRow a r = s.setMem (s.writeRow a r).mem := by
  simp only [State.writeRow, State.memWrite, setMem_setMem, setMem_mem]

theorem execChArm_armed (hclk : s.inp.clkDma = true) (hen : s.dcm.en = true) (hc : c.toNat < s.nCh)
    (hheld : (s.ch c).own = .held) (hvalid : validTransfer s.par x false = true)
    (hadm : rowAdmitted s.par (s.rowAddr c) = true) : exec (.chArm c x) s = .next (armedState c x s) := by
  have hex := (chExists_iff s c).2 hc
  have hu : exec (.chArm c x) s =
      .next ((noteArm c ((s.writeRow (s.rowAddr c) (rowOf x)).setCh c (armedChan x))).record
        (opRec (.chArm c x) s (reply c 0 0x00))) := by
    simp [exec, execChArm, withInputs, needsMet, hclk, hen, hex, hheld, hvalid, buildDescriptor, hadm, finish, answer,
      responseWord_eq, opRec, Instr.chField, Status.code]
  have hm := writeRow_eq s (s.rowAddr c) (rowOf x)
  rw [hu, armedState]
  generalize (s.writeRow (s.rowAddr c) (rowOf x)).mem = m at hm ⊢
  rw [hm]
  rfl

section
variable (c : ChIdx) (x : Transfer) (s : State)

@[simp] theorem armedState_par : (armedState c x s).par = s.par := by rw [armedState]
@[simp] theorem armedState_dcm : (armedState c x s).dcm = s.dcm := by rw [armedState]
@[simp] theorem armedState_inp : (armedState c x s).inp = s.inp := by rw [armedState]
@[simp] theorem armedState_nCh : (armedState c x s).nCh = s.nCh := by simp [State.nCh, armedState]

end

theorem armedState_mem : (armedState c x s).mem = (s.writeRow (s.rowAddr c) (rowOf x)).mem := by
  rw [armedState]

theorem armedState_ch (hc : c.toNat < s.nCh) : (armedState c x s).ch c = armedChan x ∧ OtherChansKept s (armedState c x s) c :=
  ch_of_chans_set rfl hc

/-- Outside the row every byte is as before (R144). -/
theorem byteAt_armedState {y : Nat} (hy : y < s.rowAddr c ∨ s.rowAddr c + 16 ≤ y) :
    (armedState c x s).byteAt y = s.byteAt y := by
  rw [State.byteAt, armedState_mem]
  exact writeRow_keeps s (s.rowAddr c) (rowOf x) y hy

/-- The source is apart from the table, so CH.ARM leaves it. -/
theorem byteAt_armedState_src (hc : c.toNat < s.nCh) {k : Nat} (hk : k < x.count.toNat)
    (htable : x.src.toNat + srcSpan x ≤ s.dcm.base.toNat ∨ s.dcm.base.toNat + 16 * s.nCh ≤ x.src.toNat) {y : Nat}
    (h1 : srcAt x k ≤ y) (h2 : y < srcAt x k + elemBytes x.width) : (armedState c x s).byteAt y = s.byteAt y := by
  have hin := elemAt_inside (start := x.src.toNat) (inc := x.srcInc) (w := elemBytes x.width) hk
  rw [srcSpan_eq] at htable
  simp only [srcAt] at h1 h2
  refine byteAt_armedState ?_
  simp only [State.rowAddr, descRowBytes, chSlot]
  omega

theorem moveRec_armedState (hc : c.toNat < s.nCh) {k : Nat} (hk : k < x.count.toNat)
    (htable : x.src.toNat + srcSpan x ≤ s.dcm.base.toNat ∨ s.dcm.base.toNat + 16 * s.nCh ≤ x.src.toNat) :
    moveRec (armedState c x s) c x k = moveRec s c x k := by
  rw [moveRec, State.memRead, readLE_congr fun y h1 h2 => byteAt_armedState_src hc hk htable h1 h2, moveRec, State.memRead]

/-- The hazards of arming: other channels armed with a destination that shares a byte (R367). -/
theorem armedState_haz (hc : c.toNat < s.nCh) (hd : dstSpan x < 2 ^ 32) :
    (armedState c x s).haz.descWrite = s.haz.descWrite ∧
    ((armedState c x s).haz.bufferAlias = true ↔ s.haz.bufferAlias = true ∨
      ∃ (k : Nat) (y : Chan), s.chans[k]? = some y ∧ k ≠ c.toNat ∧ y.active = true ∧
        SharesByte x.dst.toNat (dstSpan x) y.dst) := by
  obtain ⟨hdesc, halias⟩ := noteArm_haz_iff s (s.rowAddr c) (rowOf x) c (armedChan x)
  have hch : (noteArm c ((s.writeRow (s.rowAddr c) (rowOf x)).setCh c (armedChan x))).ch c = armedChan x :=
    (ch_of_chans_set (s := s) (by simp) hc).1
  have hlen : (armedChan x).dst.len.toNat = dstSpan x := by
    rw [armedChan, BitVec.toNat_ofNat, Nat.mod_eq_of_lt hd]
  rw [ArmsOver, hch, hlen] at halias
  exact ⟨hdesc, halias⟩

/-- The hazards of the whole Transfer (R366, R367). -/
theorem copied_haz (hx : validTransfer s.par x false = true) (hc : c.toNat < s.nCh) :
    (copying c x (armedState c x s) x.count.toNat).haz.descWrite = s.haz.descWrite ∧
    ((copying c x (armedState c x s) x.count.toNat).haz.bufferAlias = true ↔ s.haz.bufferAlias = true ∨
      ∃ (k : Nat) (y : Chan), s.chans[k]? = some y ∧ k ≠ c.toNat ∧
        ((y.active = true ∧ SharesByte x.dst.toNat (dstSpan x) y.dst) ∨
         (y.own = .xfer ∧ (SharesByte x.src.toNat (srcSpan x) y.dst ∨ SharesByte x.dst.toNat (dstSpan x) y.src ∨
           SharesByte x.dst.toNat (dstSpan x) y.dst)))) := by
  obtain ⟨hw, ⟨h1, hmax⟩, -⟩ := (validTransfer_iff _ _ _).1 hx
  obtain ⟨hdesc, halias⟩ := armedState_haz (x := x) hc (dstSpan_lt hw hmax)
  have hother : ∀ i, i ≠ c.toNat → (armedState c x s).chans[i]? = s.chans[i]? := fun i hi =>
    List.getElem?_set_ne (Ne.symm hi)
  have hmoves : moveAliases (armedState c x s) c x = moveAliases s c x := funext (moveAliases_of_others hw hother)
  refine ⟨hdesc, ?_⟩
  rw [copying, Bool.or_eq_true, halias, hmoves, any_moveAliases_iff hw h1, or_assoc]
  simp only [← exists_or, ← and_or_left]

/-- After CH.ARM the channel is ready, when its buffers are good (R144, R145). -/
theorem armedState_ready (hclk : s.inp.clkDma = true) (hen : s.dcm.en = true) (hc : c.toNat < s.nCh)
    (hvalid : validTransfer s.par x false = true) (hadm : rowAdmitted s.par (s.rowAddr c) = true) (hm : Memory.sorted s.mem)
    (hsrc : memAdmit s.par x.src.toNat (srcSpan x) = true) (hdst : memAdmit s.par x.dst.toNat (dstSpan x) = true)
    (hbuf : x.src.toNat + srcSpan x ≤ x.dst.toNat ∨ x.dst.toNat + dstSpan x ≤ x.src.toNat)
    (htable : x.dst.toNat + dstSpan x ≤ s.dcm.base.toNat ∨ s.dcm.base.toNat + 16 * s.nCh ≤ x.dst.toNat) :
    ReadyToCopy c x (armedState c x s) := by
  have haddr := rowAddr_congr (armedState_dcm c x s) c
  exact {
    clk := by rwa [armedState_inp]
    en := by rwa [armedState_dcm]
    inTable := by rwa [armedState_nCh]
    chan := (armedState_ch hc).1
    row := by rw [haddr, readRow_congr armedState_mem, readRow_writeRow hm]
    rowAdm := by rwa [armedState_par, haddr]
    valid := by rwa [armedState_par]
    srcAdm := by rwa [armedState_par]
    dstAdm := by rwa [armedState_par]
    buffers := hbuf
    table := by rwa [armedState_dcm, armedState_nCh]
    sorted := by
      rw [armedState_mem]
      exact writeRow_sorted hm _ _ }

end
end Sys2Proof.Machine

open Sys2Proof Sys2Proof.Machine

/-- Settles O41: CH.ARM leaves a channel ready to copy, and each element step copies one element (`takeTurn_copying`). -/
theorem anArmedTransferIsCopiedWhole : Obligations.AnArmedTransferIsCopiedWhole := by
  intro c x s w srcs dsts ns nd apart hclk hen htable hmem hc hheld hvalid hsrc hdst hbuf hsrcT hdstT
  have hw : w = elemBytes x.width := rfl
  have hsrcs : srcs = srcAt x := rfl
  have hdsts : dsts = dstAt x := rfl
  have hns : ns = srcSpan x := rfl
  have hnd : nd = dstSpan x := rfl
  clear_value srcs dsts ns nd w
  subst hsrcs hdsts hns hnd hw
  have hadm := row_admitted htable hen c hc
  have h : ReadyToCopy c x (armedState c x s) := armedState_ready hclk hen hc hvalid hadm hmem.1 hsrc hdst hbuf hdstT
  have hrun := h.takeTurns_copying (k := 0) x.count.toNat (by omega)
  rw [h.copying_zero, Nat.zero_add] at hrun
  obtain ⟨hch, hothers⟩ := h.ch_copying (k := x.count.toNat)
  obtain ⟨hdesc, halias⟩ := copied_haz hvalid hc
  refine ⟨_, _, execChArm_armed hclk hen hc hheld hvalid hadm, hrun, fun k j hk hj hlast => ?_, fun a ha hrow => ?_,
    h.readRow_copying le_rfl, hch.trans h.copyingChan_count, fun d hd => (hothers d hd).trans ((armedState_ch hc).2 d hd), ?_, ?_,
    hdesc, halias, rfl⟩
  · exact (h.byteAt_copied hk hj hlast).trans
      (byteAt_armedState_src hc hk hsrcT (Nat.le_add_right ..) (Nat.add_lt_add_left hj _))
  · rw [byteAt_copying le_rfl ha, byteAt_armedState hrow]
  · simp [State.nCh, copying, armedState]
  · have hrec : (List.range x.count.toNat).map (moveRec (armedState c x s) c x) =
        (List.range x.count.toNat).map (moveRec s c x) :=
      List.map_congr_left fun k hk => moveRec_armedState hc (List.mem_range.1 hk) hsrcT
    rw [copying, hrec]
    rfl

end

section
/-! PROOFS. The two encodings: command packets, where the decoder is the inverse of the encoder on well-formed operations (R100 to
R103, R112, R116, R117), and descriptor rows, which say the Transfer they are built from (R107 to R109, R149). -/

namespace Sys2Proof

/-! ### Word 0 and its fields -/

/-- Word 0 is its three fields (R101). -/
theorem commandWord_fields (w : Word) : commandWord (opcField w) (chField w) (immField w) = w := by
  refine BitVec.eq_of_getLsbD_eq fun i hi => ?_
  simp only [commandWord, opcField, chField, immField, BitVec.getLsbD_append, BitVec.getLsbD_extractLsb']
  split_ifs with himm hch
  · simp [himm]
  · rw [show 16 + (i - 16) = i by omega]
    simp [hch]
  · rw [show 24 + (i - 16 - 8) = i by omega, decide_eq_true (by omega), Bool.true_and]

theorem commandWord_inj {o o' : BitVec 8} {c c' : ChIdx} {m m' : BitVec 16} :
    commandWord o c m = commandWord o' c' m' ↔ o = o' ∧ c = c' ∧ m = m' := by
  refine ⟨fun h => ⟨?_, ?_, ?_⟩, fun ⟨ho, hc, hm⟩ => by rw [ho, hc, hm]⟩
  · simpa using congrArg opcField h
  · simpa using congrArg chField h
  · simpa using congrArg immField h

/-- A mask acts field by field. -/
theorem commandWord_and (o o' : BitVec 8) (c c' : ChIdx) (m m' : BitVec 16) :
    commandWord o c m &&& commandWord o' c' m' = commandWord (o &&& o') (c &&& c') (m &&& m') :=
  (BitVec.and_append (w := 16) (v := 16)).trans (congrArg (· ++ (m &&& m')) BitVec.and_append)

theorem and_commandWord_eq_iff (w : Word) (o o' : BitVec 8) (c c' : ChIdx) (m m' : BitVec 16) :
    w &&& commandWord o c m = commandWord o' c' m' ↔
      opcField w &&& o = o' ∧ chField w &&& c = c' ∧ immField w &&& m = m' := by
  rw [← commandWord_inj, ← commandWord_and, commandWord_fields]

/-! ### The rows of the opcode map by their fields -/

/-- The `OPC` of a row (R103). -/
def Opcode.opc : Opcode → BitVec 8
  | .dmaEnable => 0x01#8
  | .chTake => 0x02#8
  | .chArm => 0x03#8
  | .chWait => 0x04#8
  | .mWriteAll => 0x10#8
  | .mReadAll => 0x11#8
  | .mStart => 0x12#8
  | .mWait => 0x13#8
  | .sEnable => 0x20#8
  | .sService => 0x21#8

/-- The bits of `CH` that a row asks to be zero (R102). -/
def Opcode.zeroCh : Opcode → ChIdx
  | .dmaEnable | .mStart | .mWait | .sEnable | .sService => BitVec.allOnes 8
  | .chTake | .chArm | .chWait | .mWriteAll | .mReadAll => 0

/-- The bits of `IMM` that a row asks to be zero (R102). -/
def Opcode.zeroImm : Opcode → BitVec 16
  | .dmaEnable | .chTake | .chWait | .mStart | .mWait | .sService => BitVec.allOnes 16
  | .chArm => 0xCC#16
  | .mWriteAll | .mReadAll | .sEnable => 0

/-- The operand words of a row (R102). -/
def Opcode.operands : Opcode → Nat
  | .dmaEnable => 1
  | .chArm => 5
  | .mWriteAll | .mReadAll => 2
  | .chTake | .chWait | .mStart | .mWait | .sEnable | .sService => 0

/-- The row of the opcode map from its fields. -/
def Opcode.row (op : Opcode) : OpRow where
  op := op
  pattern := commandWord op.opc 0 0
  mask := commandWord (BitVec.allOnes 8) op.zeroCh op.zeroImm
  operands := op.operands

/-- The opcode map holds the row of each operation code, and no other (R103). -/
theorem mem_opRows_iff {row : OpRow} : row ∈ opRows ↔ ∃ op, row = Opcode.row op := by
  have hrows : opRows = [Opcode.dmaEnable, .chTake, .chArm, .chWait, .mWriteAll, .mReadAll, .mStart, .mWait, .sEnable,
      .sService].map Opcode.row := by decide
  rw [hrows, List.mem_map]
  constructor
  · rintro ⟨op, -, rfl⟩
    exact ⟨op, rfl⟩
  · rintro ⟨op, rfl⟩
    exact ⟨op, by cases op <;> decide, rfl⟩

/-- Word 0 has the `OPC` of the row, and zero in its must-be-zero fields (R102, R103). -/
def Opcode.Selected (op : Opcode) (w : Word) : Prop :=
  opcField w = op.opc ∧ chField w &&& op.zeroCh = 0 ∧ immField w &&& op.zeroImm = 0

theorem row_selects_iff (op : Opcode) (w : Word) : w &&& op.row.mask = op.row.pattern ↔ op.Selected w :=
  (and_commandWord_eq_iff ..).trans (by rw [BitVec.and_allOnes]; rfl)

theorem Opcode.opc_inj {op op' : Opcode} (h : op.opc = op'.opc) : op = op' := by
  revert h
  cases op <;> cases op' <;> decide

/-- No word selects two rows, so the row found is the one the word selects. -/
theorem selectRow_eq_some_iff {w : Word} {row : OpRow} :
    selectRow w = some row ↔ ∃ op : Opcode, row = op.row ∧ op.Selected w := by
  have hfound : ∀ {r}, selectRow w = some r → ∃ op : Opcode, r = op.row ∧ op.Selected w := fun hr => by
    obtain ⟨op, rfl⟩ := mem_opRows_iff.1 (List.mem_of_find?_eq_some hr)
    exact ⟨op, rfl, (row_selects_iff op w).1 (by simpa [OpRow.selects] using List.find?_some hr)⟩
  refine ⟨hfound, ?_⟩
  rintro ⟨op, rfl, hsel⟩
  have hsome : (selectRow w).isSome = true :=
    List.find?_isSome.2 ⟨op.row, mem_opRows_iff.2 ⟨op, rfl⟩, decide_eq_true ((row_selects_iff op w).2 hsel)⟩
  obtain ⟨r, hr⟩ := Option.isSome_iff_exists.1 hsome
  obtain ⟨op', rfl, hsel'⟩ := hfound hr
  rw [hr, Opcode.opc_inj (hsel'.1.symm.trans hsel.1)]

/-! ### The decoder as a relation -/

/-- `Reads w op rest i`: in a packet of row `op`, word 0 and the operand words stand for operation `i` (R102, R116). -/
inductive Reads (w : Word) : Opcode → List Word → Instr → Prop
  | dmaEnable (base : Word) : Reads w .dmaEnable [base] (.dmaEnable base)
  | chTake : Reads w .chTake [] (.chTake (chField w))
  | chArm (src srcLen dst dstLen count : Word) :
      Reads w .chArm [src, srcLen, dst, dstLen, count] (.chArm (chField w) (armTransfer w src srcLen dst dstLen count))
  | chWait : Reads w .chWait [] (.chWait (chField w))
  | mWriteAll (ptr len : Word) : Reads w .mWriteAll [ptr, len] (.mWriteAll (addr16 w) ptr len (chField w))
  | mReadAll (ptr len : Word) : Reads w .mReadAll [ptr, len] (.mReadAll (addr16 w) ptr len (chField w))
  | mStart : Reads w .mStart [] .mStart
  | mWait : Reads w .mWait [] .mWait
  | sEnable : Reads w .sEnable [] (.sEnable (addr16 w))
  | sService : Reads w .sService [] .sService

section
variable {op : Opcode} {w : Word} {rest : List Word} {i : Instr}

theorem decodeRow_eq_some_iff : decodeRow op w rest = some (i, []) ↔ Reads w op rest i := by
  constructor
  · intro h
    unfold decodeRow at h
    split at h <;> cases h <;> constructor
  · rintro ⟨⟩ <;> rfl

/-- Decoding a packet is decoding the row its word 0 selects, with no word left over (R112, R117). -/
theorem decode_eq_some_iff_row {p : Packet} :
    decode p = some i ↔ ∃ row, selectRow p.word0 = some row ∧ decodeRow row.op p.word0 p.operands = some (i, []) := by
  rw [decode, decodeStream]
  cases selectRow p.word0 with
  | none => simp
  | some row =>
    simp only [Option.some.injEq, exists_eq_left']
    cases decodeRow row.op p.word0 p.operands with
    | none => simp
    | some x =>
      obtain ⟨j, left⟩ := x
      cases left <;> simp

theorem decode_eq_some_iff {p : Packet} :
    decode p = some i ↔ ∃ op : Opcode, op.Selected p.word0 ∧ Reads p.word0 op p.operands i := by
  rw [decode_eq_some_iff_row]
  constructor
  · rintro ⟨row, hrow, hdec⟩
    obtain ⟨op, rfl, hsel⟩ := selectRow_eq_some_iff.1 hrow
    exact ⟨op, hsel, decodeRow_eq_some_iff.1 hdec⟩
  · rintro ⟨op, hsel, hreads⟩
    exact ⟨op.row, selectRow_eq_some_iff.2 ⟨op, rfl, hsel⟩, decodeRow_eq_some_iff.2 hreads⟩

/-- The operand words fail to make an operation only by their number (R112). -/
theorem exists_reads_iff : (∃ i, Reads w op rest i) ↔ rest.length = op.operands := by
  constructor
  · rintro ⟨i, ⟨⟩⟩ <;> rfl
  · intro h
    cases op with
    | dmaEnable =>
      obtain ⟨base, rfl⟩ := List.length_eq_one_iff.1 h
      exact ⟨_, .dmaEnable base⟩
    | mWriteAll =>
      obtain ⟨ptr, len, rfl⟩ := List.length_eq_two.1 h
      exact ⟨_, .mWriteAll ptr len⟩
    | mReadAll =>
      obtain ⟨ptr, len, rfl⟩ := List.length_eq_two.1 h
      exact ⟨_, .mReadAll ptr len⟩
    | chArm =>
      match rest, h with
      | [src, srcLen, dst, dstLen, count], _ => exact ⟨_, .chArm src srcLen dst dstLen count⟩
    | chTake | chWait | mStart | mWait | sEnable | sService =>
      obtain rfl := List.length_eq_zero_iff.1 h
      exact ⟨_, by constructor⟩

end

/-- A packet is legal when word 0 selects a row of the map and the row's number of operand words follows (R112). -/
theorem exists_decode_iff (p : Packet) :
    (∃ i, decode p = some i) ↔ ∃ row ∈ opRows, p.word0 &&& row.mask = row.pattern ∧ p.operands.length = row.operands := by
  constructor
  · rintro ⟨i, h⟩
    obtain ⟨op, hsel, hreads⟩ := decode_eq_some_iff.1 h
    exact ⟨op.row, mem_opRows_iff.2 ⟨op, rfl⟩, (row_selects_iff op _).2 hsel, exists_reads_iff.1 ⟨i, hreads⟩⟩
  · rintro ⟨row, hmem, hsel, hlen⟩
    obtain ⟨op, rfl⟩ := mem_opRows_iff.1 hmem
    obtain ⟨i, hreads⟩ := exists_reads_iff.2 hlen
    exact ⟨i, decode_eq_some_iff.2 ⟨op, (row_selects_iff op _).1 hsel, hreads⟩⟩

/-! ### `IMM` of CH.ARM and of the operations with a bus address -/

/-- The bits of `IMM` of CH.ARM (R102). -/
theorem armImm_getLsbD (t : Transfer) {i : Nat} (hi : i < 16) :
    (armImm t).getLsbD i =
      if i < 2 then t.width.testBit i else if i = 4 then t.srcInc else if i = 5 then t.dstInc else
        decide (8 ≤ i) && t.trig.testBit (i - 8) := by
  simp only [armImm, BitVec.getLsbD_append, BitVec.getLsbD_ofNat, BitVec.getLsbD_ofBool]
  interval_cases i <;> simp

theorem armImm_width (t : Transfer) : (armImm t).extractLsb' 0 2 = BitVec.ofNat 2 t.width :=
  BitVec.extractLsb'_append_eq_right

theorem armImm_trig (t : Transfer) : (armImm t).extractLsb' 8 8 = BitVec.ofNat 8 t.trig := by
  refine BitVec.eq_of_getLsbD_eq fun i hi => ?_
  rw [BitVec.getLsbD_extractLsb', armImm_getLsbD t (by omega), BitVec.getLsbD_ofNat]
  interval_cases i <;> simp

/-- The encoder leaves the must-be-zero bits of CH.ARM zero. -/
theorem armImm_and (t : Transfer) : armImm t &&& 0xCC#16 = 0 := by
  refine BitVec.eq_of_getLsbD_eq fun i hi => ?_
  rw [BitVec.getLsbD_and, armImm_getLsbD t hi]
  interval_cases i <;> simp

/-- A Transfer whose codes fit comes back from its `IMM` and its operand words (R102, R116). -/
theorem armTransfer_of_armImm {t : Transfer} (h : t.wf = true) {w : Word} (hw : immField w = armImm t) :
    armTransfer w t.src t.srcLen t.dst t.dstLen t.count = t := by
  simp only [Transfer.wf, Bool.and_eq_true, decide_eq_true_eq] at h
  obtain ⟨hwidth, htrig⟩ := h
  have hsrc : (armImm t).getLsbD 4 = t.srcInc := armImm_getLsbD t (by decide)
  have hdst : (armImm t).getLsbD 5 = t.dstInc := armImm_getLsbD t (by decide)
  rw [armTransfer, hw, armImm_width, armImm_trig, hsrc, hdst, BitVec.toNat_ofNat, BitVec.toNat_ofNat,
    Nat.mod_eq_of_lt hwidth, Nat.mod_eq_of_lt htrig]

/-- An `IMM` with its must-be-zero bits zero comes back from the Transfer read from it. -/
theorem armImm_armTransfer {w : Word} (h : immField w &&& 0xCC#16 = 0) (src srcLen dst dstLen count : Word) :
    armImm (armTransfer w src srcLen dst dstLen count) = immField w := by
  refine BitVec.eq_of_getLsbD_eq fun i hi => ?_
  have hzero : ((immField w).getLsbD i && (0xCC#16).getLsbD i) = false := by
    rw [← BitVec.getLsbD_and, h]
    exact BitVec.getLsbD_zero
  rw [armImm_getLsbD _ hi]
  simp only [armTransfer, BitVec.testBit_toNat, BitVec.getLsbD_extractLsb']
  interval_cases i <;> simp_all

theorem addr16_commandWord {addr : Nat} (h : addr < 65536) (o : BitVec 8) (c : ChIdx) :
    addr16 (commandWord o c (BitVec.ofNat 16 addr)) = addr := by
  rw [addr16, immField_commandWord, BitVec.toNat_ofNat, Nat.mod_eq_of_lt h]

/-! ### Encoder and decoder -/

/-- The row of an operation (R103). -/
def Instr.opcode : Instr → Opcode
  | .dmaEnable _ => .dmaEnable
  | .chTake _ => .chTake
  | .chArm _ _ => .chArm
  | .chWait _ => .chWait
  | .mWriteAll _ _ _ _ => .mWriteAll
  | .mReadAll _ _ _ _ => .mReadAll
  | .mStart => .mStart
  | .mWait => .mWait
  | .sEnable _ => .sEnable
  | .sService => .sService

/-- Word 0 of an operation's packet selects the operation's row. -/
theorem selected_encode (i : Instr) : i.opcode.Selected (encode i).word0 := by
  cases i <;>
    simp [encode, Instr.opcode, Opcode.Selected, Opcode.opc, Opcode.zeroCh, Opcode.zeroImm, armImm_and]

/-- The packet of a well-formed operation stands for it. -/
theorem reads_encode {i : Instr} (h : i.wf = true) : Reads (encode i).word0 i.opcode (encode i).operands i := by
  cases i with
  | dmaEnable base => exact .dmaEnable base
  | chTake c => simpa [encode, Instr.opcode] using @Reads.chTake (commandWord 0x02#8 c 0)
  | chArm c t =>
    simpa [encode, Instr.opcode, armTransfer_of_armImm h] using
      @Reads.chArm (commandWord 0x03#8 c (armImm t)) t.src t.srcLen t.dst t.dstLen t.count
  | chWait c => simpa [encode, Instr.opcode] using @Reads.chWait (commandWord 0x04#8 c 0)
  | mWriteAll addr ptr len c =>
    simpa [encode, Instr.opcode, addr16_commandWord (of_decide_eq_true h)] using
      @Reads.mWriteAll (commandWord 0x10#8 c (BitVec.ofNat 16 addr)) ptr len
  | mReadAll addr ptr len c =>
    simpa [encode, Instr.opcode, addr16_commandWord (of_decide_eq_true h)] using
      @Reads.mReadAll (commandWord 0x11#8 c (BitVec.ofNat 16 addr)) ptr len
  | mStart => exact .mStart
  | mWait => exact .mWait
  | sEnable addr =>
    simpa [encode, Instr.opcode, addr16_commandWord (of_decide_eq_true h)] using
      @Reads.sEnable (commandWord 0x20#8 0 (BitVec.ofNat 16 addr))
  | sService => exact .sService

section
variable {op : Opcode} {w : Word} {rest : List Word} {i : Instr}

/-- What a packet stands for fits its fields. -/
theorem reads_wf (h : Reads w op rest i) : i.wf = true := by
  have haddr : addr16 w < 65536 := (immField w).isLt
  cases h with
  | chArm =>
    rw [Instr.wf, Transfer.wf, Bool.and_eq_true]
    exact ⟨decide_eq_true (BitVec.isLt _), decide_eq_true (BitVec.isLt _)⟩
  | mWriteAll | mReadAll | sEnable => exact decide_eq_true haddr
  | dmaEnable | chTake | chWait | mStart | mWait | sService => rfl

/-- The operation that a packet stands for has that packet: a field is either read or must be zero. -/
theorem encode_of_reads (hsel : op.Selected w) (h : Reads w op rest i) : encode i = ⟨w, rest⟩ := by
  obtain ⟨ho, hc, hm⟩ := hsel
  have hw := commandWord_fields w
  have haddr : BitVec.ofNat 16 (addr16 w) = immField w := by rw [addr16, BitVec.ofNat_toNat, BitVec.setWidth_eq]
  rw [ho] at hw
  cases h with
  | dmaEnable | mStart | mWait | sService =>
    rw [Opcode.zeroCh, BitVec.and_allOnes] at hc
    rw [Opcode.zeroImm, BitVec.and_allOnes] at hm
    rw [hc, hm] at hw
    exact congrArg (Packet.mk · _) hw
  | chTake | chWait =>
    rw [Opcode.zeroImm, BitVec.and_allOnes] at hm
    rw [hm] at hw
    exact congrArg (Packet.mk · _) hw
  | chArm =>
    rw [encode, armImm_armTransfer hm]
    exact congrArg (Packet.mk · _) hw
  | mWriteAll | mReadAll =>
    rw [encode, haddr]
    exact congrArg (Packet.mk · _) hw
  | sEnable =>
    rw [Opcode.zeroCh, BitVec.and_allOnes] at hc
    rw [hc] at hw
    rw [encode, haddr]
    exact congrArg (Packet.mk · _) hw

end

end Sys2Proof

open Sys2Proof Sys2Proof.Machine

/-- Settles O1: the packet of an operation selects the operation's row, and what is read from it is the operation. -/
theorem decodeOfEncodeGivesTheInstruction : Obligations.DecodeOfEncodeGivesTheInstruction :=
  fun i hi => decode_eq_some_iff.2 ⟨i.opcode, selected_encode i, reads_encode hi⟩

/-- Settles O2: every field of word 0 is read into the operation or must be zero. -/
theorem encodeOfDecodeGivesThePacket : Obligations.EncodeOfDecodeGivesThePacket := by
  intro p i h
  obtain ⟨op, hsel, hreads⟩ := decode_eq_some_iff.1 h
  exact ⟨reads_wf hreads, encode_of_reads hsel hreads⟩

/-- Settles O3: legality by the rows of the opcode map; an illegal packet is answered before the clocks are looked at. -/
theorem illegalPacketsAreAnsweredAndChangeNothing : Obligations.IllegalPacketsAreAnsweredAndChangeNothing := by
  refine fun p s => ⟨exists_decode_iff p, fun h => ?_⟩
  rw [issue, h]
  simp only [answerIllegal, responseWord_eq]
  rfl

/-- Settles O4: the decoder run on the ten packets. -/
theorem examplePacketsDecodeAsTheSpecSays : Obligations.ExamplePacketsDecodeAsTheSpecSays := by
  unfold Obligations.ExamplePacketsDecodeAsTheSpecSays
  decide

/-- Settles O13: the fields of the built `CFG`, and the element addresses, which do not wrap (R143). -/
theorem builtRowsAreWellFormedAndSayTheTransfer : Obligations.BuiltRowsAreWellFormedAndSayTheTransfer := by
  intro p x allowPort hvalid
  obtain ⟨hw, ⟨h1, hmax⟩, -, -, -, ⟨hsrc, hdst⟩, -⟩ := (validTransfer_iff ..).1 hvalid
  have hw4 : x.width < 4 := by omega
  refine ⟨rowWellFormed_rowOf hw h1 hmax, cfgWidth_cfgWord hw4, cfgSrcInc_cfgWord hw4, cfgDstInc_cfgWord hw4,
    cfgCount_rowOf hw h1 hmax, fun r hr hrx => ⟨?_, ?_⟩⟩
  · exact elemAddr_endAddr_toNat hw hmax (fun hinc => by simpa [srcSpan, hinc] using hsrc) hr hrx
  · exact elemAddr_endAddr_toNat hw hmax (fun hinc => by simpa [dstSpan, hinc] using hdst) hr hrx

end

section
/-! PROOFS. How an operation comes back to the host: with its inputs on it has a next state (R140, R340), and its response is one of
those listed for it (R104, R321). -/

namespace Sys2Proof.Machine

/-! ### Every operation goes on -/

/-- The outcome is a next state. -/
def GoesOn (r : Result) : Prop := ∃ t, r = .next t

theorem goesOn_next (t : State) : GoesOn (.next t) := ⟨t, rfl⟩

theorem goesOn_withInputs {i : Instr} {s : State} {k : Result} (hon : InputsOn s) (hk : GoesOn k) :
    GoesOn (withInputs i s k) := by
  obtain ⟨hdma, hi2c, hpins⟩ := hon
  rw [withInputs_on]
  · exact hk
  · cases i <;> simp [needsMet, hdma, hi2c, hpins]

/-- A WAIT ends or blocks (R146, R204). -/
theorem goesOn_holdOrFinish (h : Hold) (s : State) : GoesOn (holdOrFinish h s) := by
  obtain ⟨-, e⟩ | ⟨-, e⟩ := holdOrFinish_cases h s
  · obtain ⟨t, ht, -⟩ := finishWait_keeps_hosts h (s.setHold s.cur none)
    exact ⟨t, e.trans ht⟩
  · exact ⟨_, e⟩

theorem buildDescriptor_of_admitted {c : ChIdx} {s : State} (h : rowAdmitted s.par (s.rowAddr c) = true) (x : Transfer) :
    buildDescriptor c x s = some (s.writeRow (s.rowAddr c) (rowOf x)) := by
  rw [buildDescriptor, if_pos h]

section
variable {s : State} (hon : InputsOn s)
include hon

theorem execDmaEnable_goesOn (base : Word) : GoesOn (execDmaEnable base s) := by
  refine goesOn_withInputs hon ?_
  split_ifs <;> exact goesOn_next _

theorem execChTake_goesOn (c : ChIdx) : GoesOn (execChTake c s) := by
  refine goesOn_withInputs hon ?_
  split_ifs <;> exact goesOn_next _

/-- The row of a channel that exists is in the table, which memory admits (R73). -/
theorem execChArm_goesOn (htable : TableOk s) (c : ChIdx) (x : Transfer) : GoesOn (execChArm c x s) := by
  refine goesOn_withInputs hon ?_
  split_ifs with hen hc
  case neg =>
    rw [buildDescriptor_of_admitted (row_admitted htable (by simpa using hen) c ((chExists_iff s c).1 (by simpa using hc)))]
    exact goesOn_next _
  all_goals exact goesOn_next _

theorem execChWait_goesOn (c : ChIdx) : GoesOn (execChWait c s) := by
  refine goesOn_withInputs hon ?_
  split_ifs
  case neg => exact goesOn_holdOrFinish _ s
  all_goals exact goesOn_next _

theorem describe_goesOn (i : Instr) (dir : Dir) (addr : Nat) (ptr len : Word) (c : ChIdx) :
    GoesOn (describe i dir addr ptr len c s) := by
  refine goesOn_withInputs hon ?_
  split_ifs <;> exact goesOn_next _

/-- While a transaction is pending the master's channel is in flight, so its row is in the table of an enabled engine (R42). -/
theorem execMStart_goesOn (hmaster : MasterOk s) (htable : TableOk s) : GoesOn (execMStart s) := by
  refine goesOn_withInputs hon ?_
  split_ifs with hpend
  · exact goesOn_next _
  · have hbusy : s.me.phase ≠ .idle := fun e => hpend (by simp [e])
    have hown : (s.ch s.me.ch).own ≠ .free := by simp [(hmaster.busy hbusy).1]
    rw [buildDescriptor_of_admitted (row_admitted htable (hmaster.taken _ hown) s.me.ch (exists_of_own s _ hown))]
    exact goesOn_next _

theorem execMWait_goesOn : GoesOn (execMWait s) := by
  refine goesOn_withInputs hon ?_
  split_ifs
  · exact goesOn_next _
  · exact goesOn_holdOrFinish _ s

theorem execSEnable_goesOn (addr : Nat) : GoesOn (execSEnable addr s) := by
  refine goesOn_withInputs hon ?_
  split_ifs <;> exact goesOn_next _

theorem execSService_goesOn : GoesOn (execSService s) := by
  refine goesOn_withInputs hon ?_
  split_ifs <;> exact goesOn_next _

theorem exec_goesOn (hmaster : MasterOk s) (htable : TableOk s) (i : Instr) : GoesOn (exec i s) := by
  cases i with
  | dmaEnable base => exact execDmaEnable_goesOn hon base
  | chTake c => exact execChTake_goesOn hon c
  | chArm c x => exact execChArm_goesOn hon htable c x
  | chWait c => exact execChWait_goesOn hon c
  | mWriteAll addr ptr len c => exact describe_goesOn hon _ _ addr ptr len c
  | mReadAll addr ptr len c => exact describe_goesOn hon _ _ addr ptr len c
  | mStart => exact execMStart_goesOn hon hmaster htable
  | mWait => exact execMWait_goesOn hon
  | sEnable addr => exact execSEnable_goesOn hon addr
  | sService => exact execSService_goesOn hon

end

/-! ### Responses -/

/-- Operation `i`, issued in `s`, has answered in `t`: its OP record, with these fields, is the last record (R36, R104). -/
def Ends (s t : State) (i : Instr) (c : ChIdx) (info : Nat) (st : Status) : Prop :=
  ∃ before, t.trace = s.trace ++ before ++ [opRec i s (reply c info st.code.toNat)]

/-- The operation has answered with `CH` copied, `INFO` 0 and one of these statuses. -/
def EndsIn (s t : State) (i : Instr) (l : List Status) : Prop := ∃ st ∈ l, Ends s t i i.chField 0 st

section
variable {s t u : State} {i : Instr} {st : Status}

theorem ends_answer {info : BitVec 8} {c : ChIdx} (h : answer i st info c u = .next t) (hcur : u.cur = s.cur)
    (htrace : s.trace <+: u.trace) : Ends s t i c info.toNat st := by
  obtain ⟨before, hbefore⟩ := htrace
  refine ⟨before, ?_⟩
  rw [answer_next h, hbefore, opRec, opRec, hcur]

/-- An answer with `INFO` 0 and no record before it. -/
theorem ends_answer_zero {c : ChIdx} (h : answer i st 0 c u = .next t) (hcur : u.cur = s.cur) (htrace : u.trace = s.trace) :
    Ends s t i c 0 st := by
  simpa using ends_answer h hcur (htrace ▸ List.prefix_rfl)

theorem endsIn_finish {l : List Status} (h : finish i st u = .next t) (hcur : u.cur = s.cur) (htrace : u.trace = s.trace)
    (hst : st ∈ l) : EndsIn s t i l :=
  ⟨st, hst, ends_answer_zero h hcur htrace⟩

theorem execDmaEnable_ends {base : Word} (h : execDmaEnable base s = .next t) :
    EndsIn s t (.dmaEnable base) [.cfgAlreadyEnabled, .cfgBadBase, .ok] := by
  obtain ⟨-, h⟩ := withInputs_next h
  split_ifs at h <;> exact endsIn_finish h rfl rfl (by decide)

theorem execChTake_ends {c : ChIdx} (h : execChTake c s = .next t) :
    EndsIn s t (.chTake c) [.lifecycle, .cfgBadChannel, .chAlreadyTaken, .ok] := by
  obtain ⟨-, h⟩ := withInputs_next h
  split_ifs at h <;> exact endsIn_finish h rfl rfl (by decide)

theorem execChArm_ends {c : ChIdx} {x : Transfer} (h : execChArm c x s = .next t) :
    EndsIn s t (.chArm c x) [.lifecycle, .cfgBadChannel, .cfgDegenerateTransfer, .ok] := by
  obtain ⟨-, h⟩ := withInputs_next h
  split_ifs at h
  case neg =>
    cases hb : buildDescriptor c x s with
    | none => simp [hb] at h
    | some s1 =>
      obtain ⟨-, rfl⟩ := buildDescriptor_some hb
      rw [hb] at h
      exact endsIn_finish h (by simp) (by simp) (by decide)
  all_goals exact endsIn_finish h rfl rfl (by decide)

theorem describe_ends {dir : Dir} {addr : Nat} {ptr len : Word} {c : ChIdx} (h : describe i dir addr ptr len c s = .next t) :
    EndsIn s t i [.cfgInvalidAddress, .ok, .lifecycle, .cfgBadChannel, .cfgDegenerateTransfer] := by
  obtain ⟨-, h⟩ := withInputs_next h
  split_ifs at h <;> exact endsIn_finish h rfl rfl (by decide)

theorem execMStart_ends (h : execMStart s = .next t) : EndsIn s t .mStart [.lifecycle, .ok] := by
  obtain ⟨-, h⟩ := withInputs_next h
  split_ifs at h
  · exact endsIn_finish h rfl rfl (by decide)
  · cases hb : buildDescriptor s.me.ch (masterTransfer s.par s.me) s with
    | none => simp [hb] at h
    | some s1 =>
      obtain ⟨-, rfl⟩ := buildDescriptor_some hb
      rw [hb] at h
      exact endsIn_finish h (by simp) (by simp) (by decide)

theorem execSEnable_ends {addr : Nat} (h : execSEnable addr s = .next t) :
    EndsIn s t (.sEnable addr) [.cfgInvalidAddress, .cfgAlreadyEnabled, .ok] := by
  obtain ⟨-, h⟩ := withInputs_next h
  split_ifs at h <;> exact endsIn_finish h rfl rfl (by decide)

theorem chWaitStatus_mem (e : ChErr) : chWaitStatus e ∈ [Status.dmaAbort, .dmaPeriphNack, .ok] := by
  cases e <;> decide

theorem mWaitStatus_mem (f : MFault) (e : ChErr) :
    mWaitStatus f e ∈ [Status.busNackAddress, .busNackData, .busArbLost, .busTimeout, .dmaAbort, .ok] := by
  cases f <;> cases e <;> decide

theorem execChWait_ends {c : ChIdx} (h : execChWait c s = .next t) :
    t = s.setHold s.cur (some (.chWait c)) ∨
    EndsIn s t (.chWait c) [.lifecycle, .cfgBadChannel, .dmaAbort, .dmaPeriphNack, .ok] := by
  obtain ⟨-, h⟩ := withInputs_next h
  split_ifs at h
  case neg =>
    obtain ⟨-, e⟩ | ⟨-, e⟩ := holdOrFinish_cases (.chWait c) s
    · rw [e] at h
      exact .inr (endsIn_finish h (by simp) (by simp) (List.mem_cons_of_mem _ (List.mem_cons_of_mem _ (chWaitStatus_mem _))))
    · rw [e] at h
      cases h
      exact .inl rfl
  all_goals exact .inr (endsIn_finish h rfl rfl (by decide))

/-- M.WAIT hands back the master's channel, but for a check that fails (R204). -/
theorem execMWait_ends (h : execMWait s = .next t) :
    t = s.setHold s.cur (some (.mWait s.me.ch)) ∨ Ends s t .mWait 0 0 .lifecycle ∨
    ∃ st ∈ [Status.busNackAddress, .busNackData, .busArbLost, .busTimeout, .dmaAbort, .ok], Ends s t .mWait s.me.ch 0 st := by
  obtain ⟨-, h⟩ := withInputs_next h
  split_ifs at h
  · exact .inr (.inl (ends_answer_zero h rfl rfl))
  · obtain ⟨-, e⟩ | ⟨-, e⟩ := holdOrFinish_cases (.mWait s.me.ch) s
    · rw [e] at h
      exact .inr (.inr ⟨_, mWaitStatus_mem _ _, ends_answer_zero h (by simp) (by simp)⟩)
    · rw [e] at h
      cases h
      exact .inl rfl

/-! ### The response of S.SERVICE -/

/-- `INFO` of S.SERVICE as a number (R104). -/
theorem serviceInfo_toNat (ev : EvCode) (underrun : Bool) (x : BitVec 3) :
    (serviceInfo ev underrun x).toNat = ev.toNat + (if underrun = true then 16 else 0) + 32 * x.toNat := by
  have hev := ev.isLt
  rw [serviceInfo, BitVec.toNat_append, BitVec.toNat_append, ← Nat.shiftLeft_add_eq_or_of_lt hev,
    ← Nat.shiftLeft_add_eq_or_of_lt (BitVec.isLt _)]
  cases underrun <;> simp [Nat.shiftLeft_eq] <;> omega

/-- `INFO` of an S.SERVICE issued in `s` that leaves `t`, as a number: the code read, UNDERRUN, the new session state (R104). -/
def infoServiced (s t : State) : Nat :=
  (if s.sl.fatal = true then s.sl.faultCode.toNat else if s.sl.en = true then s.sl.pend.toNat else 0) +
  (if s.sl.fatal = false ∧ s.sl.en = true ∧ s.sl.pend = evTxReady ∧ s.sl.lastValid = false then 16 else 0) +
  32 * (if s.sl.fatal = true then 7 else t.sl.state.code.toNat)

theorem infoServiced_of_fatal (hfatal : s.sl.fatal = true) :
    infoServiced s t = (serviceInfo s.sl.faultCode false SState.fault.code).toNat := by
  simp [infoServiced, serviceInfo_toNat, hfatal, SState.code]

theorem infoServiced_of_disabled (hfatal : s.sl.fatal = false) (hen : s.sl.en = false) :
    infoServiced s t = (serviceInfo evNone false t.sl.state.code).toNat := by
  simp [infoServiced, serviceInfo_toNat, hfatal, hen, evNone]

theorem serviced_sl {ev : EvCode} {underrun : Bool} (h : serviced st ev underrun u = .next t) : t.sl = u.sl := by
  rw [answer_next h]

section
variable {ev : EvCode} {underrun : Bool} (hfatal : s.sl.fatal = false) (hen : s.sl.en = true)
  (h : serviced st ev underrun u = .next t) (hev : s.sl.pend = ev)
  (hunder : underrun = true ↔ ev = evTxReady ∧ s.sl.lastValid = false)
include hfatal hen h hev hunder

/-- An enabled slave answers with the code it has read (R242). -/
theorem ends_serviced (hcur : u.cur = s.cur) (htrace : s.trace <+: u.trace) : Ends s t .sService 0 (infoServiced s t) st := by
  have hinfo : infoServiced s t = (serviceInfo ev underrun t.sl.state.code).toNat := by
    simp [infoServiced, serviceInfo_toNat, hfatal, hen, hev, hunder]
  rw [hinfo, serviced_sl h]
  exact ends_answer h hcur htrace

/-- The answer of a case that has done something (R244 to R247). -/
theorem ends_serviceCase (hc : ServiceCase s u) : Ends s t .sService 0 (infoServiced s t) st :=
  ends_serviced hfatal hen h hev hunder (serviceCase_kept hc).cur (grows_serviceCase hc).trace

end

/-- Every invocation of S.SERVICE ends, with one of three statuses (R242). -/
theorem execSService_ends (h : execSService s = .next t) :
    ∃ st ∈ [Status.fatal, .wouldBlock, .ok], Ends s t .sService 0 (infoServiced s t) st := by
  obtain ⟨-, h⟩ := withInputs_next h
  split_ifs at h with hfatal hoff hnone haddr hrx htx hvalid
  · rw [infoServiced_of_fatal hfatal]
    exact ⟨.fatal, by decide, ends_answer h rfl List.prefix_rfl⟩
  all_goals rw [Bool.not_eq_true] at hfatal
  · rw [infoServiced_of_disabled hfatal (by simpa using hoff), serviced_sl h]
    exact ⟨.wouldBlock, by decide, ends_answer h rfl List.prefix_rfl⟩
  all_goals have hen : s.sl.en = true := by simpa using hoff
  · exact ⟨.wouldBlock, by decide, ends_serviced hfatal hen h hnone (by simp [evNone, evTxReady]) rfl List.prefix_rfl⟩
  · exact ⟨.ok, by decide, ends_serviceCase hfatal hen h haddr (by simp [evAddrMatch, evTxReady]) (.addrMatch haddr)⟩
  · exact ⟨.ok, by decide, ends_serviceCase hfatal hen h hrx (by simp [evRxReady, evTxReady]) (.rxReady hrx)⟩
  · exact ⟨.ok, by decide, ends_serviceCase hfatal hen h htx (by simp [hvalid]) (.txReady htx hvalid)⟩
  · rw [Bool.not_eq_true] at hvalid
    exact ⟨.ok, by decide, ends_serviceCase hfatal hen h htx (by simp [hvalid]) (.underrun htx hvalid)⟩
  · exact ⟨.fatal, by decide, ends_serviced hfatal hen h rfl (by simp [htx]) rfl List.prefix_rfl⟩

end

/-- The response of an operation other than M.WAIT and S.SERVICE: `CH` copied, `INFO` 0, a listed status (R104, R321). -/
theorem EndsIn.response {s t : State} {i : Instr} {l : List Status} (h : EndsIn s t i l) (hw : i ≠ .mWait)
    (hs : i ≠ .sService) :
    ∃ (before : List Rec) (c : ChIdx) (info status : Nat),
      t.trace = s.trace ++ before ++ [opRec i s (reply c info status)] ∧ status ∈ l.map (·.code.toNat) ∧
      c = (if i = .mWait ∧ status ≠ 0x50 then s.me.ch else i.chField) ∧
      info = (if i = .sService then infoServiced s t else 0) := by
  obtain ⟨st, hst, before, htrace⟩ := h
  exact ⟨before, i.chField, 0, st.code.toNat, htrace, List.mem_map_of_mem hst, by simp [hw], by simp [hs]⟩

end Sys2Proof.Machine

open Sys2Proof Sys2Proof.Machine

/-- Settles O29: only a row outside admitted memory could stop an operation, and the table is admitted. -/
theorem everyOperationHasANextState : Obligations.EveryOperationHasANextState :=
  fun i _ hon hmaster htable => exec_goesOn hon hmaster htable i

/-- Settles O30: the answers of each operation, check by check. -/
theorem responsesAreThoseTheSpecLists : Obligations.ResponsesAreThoseTheSpecLists := by
  intro i s t h
  cases i with
  | dmaEnable base => exact .inr (.inr ((execDmaEnable_ends h).response nofun nofun))
  | chTake c => exact .inr (.inr ((execChTake_ends h).response nofun nofun))
  | chArm c x => exact .inr (.inr ((execChArm_ends h).response nofun nofun))
  | chWait c =>
    obtain hblocked | hends := execChWait_ends h
    · exact .inl ⟨c, rfl, hblocked⟩
    · exact .inr (.inr (hends.response nofun nofun))
  | mWriteAll addr ptr len c => exact .inr (.inr ((describe_ends h).response nofun nofun))
  | mReadAll addr ptr len c => exact .inr (.inr ((describe_ends h).response nofun nofun))
  | mStart => exact .inr (.inr ((execMStart_ends h).response nofun nofun))
  | mWait =>
    obtain hblocked | ⟨before, htrace⟩ | ⟨st, hst, before, htrace⟩ := execMWait_ends h
    · exact .inr (.inl ⟨rfl, hblocked⟩)
    · exact .inr (.inr ⟨before, 0, 0, 0x50, htrace, by decide, rfl, rfl⟩)
    · have hmem : st.code.toNat ∈ [0x20, 0x21, 0x22, 0x23, 0x30, 0x00] := List.mem_map_of_mem (f := (·.code.toNat)) hst
      have hne : st.code.toNat ≠ 0x50 := fun e => by simp [e] at hmem
      exact .inr (.inr ⟨before, s.me.ch, 0, st.code.toNat, htrace, List.mem_cons_of_mem _ hmem, by simp [hne], rfl⟩)
  | sEnable addr => exact .inr (.inr ((execSEnable_ends h).response nofun nofun))
  | sService =>
    obtain ⟨st, hst, before, htrace⟩ := execSService_ends h
    exact .inr (.inr ⟨before, 0, infoServiced s t, st.code.toNat, htrace, List.mem_map_of_mem (f := (·.code.toNat)) hst,
      rfl, rfl⟩)

end

section
/-! PROOFS. The four operations of the Descriptor/Channel Manager, check by check (R141 to R146), the inputs an operation needs
(R140), and two channels taken in either order (R142, R154). -/

namespace Sys2Proof.Machine

/-! ### The inputs an operation needs -/

/-- The outcome is no refusal. -/
def NotRefused (k : Result) : Prop := ∀ r, k ≠ .refused r

theorem GoesOn.notRefused {k : Result} (h : GoesOn k) : NotRefused k := by
  obtain ⟨t, rfl⟩ := h
  nofun

theorem notRefused_next (u : State) : NotRefused (.next u) := nofun

/-- An operation that builds a row ends or faults. -/
theorem notRefused_build (o : Option State) {f : State → Result} (hf : ∀ u, NotRefused (f u)) :
    NotRefused (match o with | none => .fault .rowNotAdmitted | some u => f u) := by
  cases o with
  | none => nofun
  | some u => exact hf u

/-- Past the check of its inputs no operation is refused: each check answers, a WAIT ends or blocks (R140, R329). -/
theorem exec_eq_withInputs (i : Instr) (s : State) : ∃ k, exec i s = withInputs i s k ∧ NotRefused k := by
  cases i with
  | dmaEnable | chTake | mWriteAll | mReadAll | sEnable | sService =>
    refine ⟨_, rfl, ?_⟩
    split_ifs <;> exact notRefused_next _
  | chArm c x =>
    refine ⟨_, rfl, ?_⟩
    split_ifs
    case neg => exact notRefused_build _ fun _ => notRefused_next _
    all_goals exact notRefused_next _
  | mStart =>
    refine ⟨_, rfl, ?_⟩
    split_ifs
    · exact notRefused_next _
    · exact notRefused_build _ fun _ => notRefused_next _
  | chWait | mWait =>
    refine ⟨_, rfl, ?_⟩
    split_ifs
    case neg => exact (goesOn_holdOrFinish _ s).notRefused
    all_goals exact notRefused_next _

/-- An operation is refused for its inputs alone (R140). -/
theorem exec_refused_iff (i : Instr) (s : State) (r : Refusal) :
    exec i s = .refused r ↔ r = .clockOff ∧ needsMet s.inp i = false := by
  obtain ⟨k, hk, hnot⟩ := exec_eq_withInputs i s
  rw [hk]
  cases hn : needsMet s.inp i with
  | true => simp [withInputs_on i s k hn, hnot r]
  | false => simp [withInputs, hn, eq_comm]

/-- The inputs by the family of the operation (R140, check 2). -/
theorem needsMet_eq_false_iff (n : Inputs) (i : Instr) :
    needsMet n i = false ↔
      ((usesDcm i = true ∨ usesMaster i = true) ∧ n.clkDma = false) ∨ (usesDcm i = false ∧ n.clkI2c = false) ∨
      ((i = .mStart ∨ ∃ addr, i = .sEnable addr) ∧ n.pinsOk = false) := by
  cases i <;> simp [needsMet, usesDcm, usesMaster, -Bool.and_eq_false_imp, Bool.and_eq_false_iff] <;> tauto

/-! ### Answers -/

/-- A check that fails answers with its status and does nothing else (R322, R329). -/
theorem answersOnly_of_finish {i : Instr} {s : State} {st : Status} (h : exec i s = finish i st s) :
    AnswersOnly i s i.chField st.code.toNat := by
  refine ⟨_, h, ?_⟩
  rw [responseWord_eq]
  rfl

/-- An operation that does its work and answers ST_OK (R104, R329). -/
theorem finish_ok (i : Instr) (u : State) : finish i .ok u = .next (u.record (opRec i u (reply i.chField 0 0x00))) := by
  rw [finish, answer, responseWord_eq]
  rfl

/-- The state in which CH.TAKE has granted channel `c` (R142). -/
def takenState (c : ChIdx) (s : State) : State :=
  { s with
    chans := s.chans.set c.toNat { s.ch c with own := .held }
    trace := s.trace ++ [opRec (.chTake c) s (reply c 0 0x00)] }

section
variable {s : State} {c : ChIdx}

/-- CH.TAKE grants a free channel of an enabled engine (R142). -/
theorem execChTake_taken (hclk : s.inp.clkDma = true) (hen : s.dcm.en = true) (hc : c.toNat < s.nCh)
    (hfree : (s.ch c).own = .free) : exec (.chTake c) s = .next (takenState c s) := by
  have hex := (chExists_iff s c).2 hc
  simp only [exec, execChTake, withInputs, needsMet, hclk, hen, hex, hfree, finish_ok]
  rfl

@[simp] theorem takenState_chans (c : ChIdx) (s : State) :
    (takenState c s).chans = s.chans.set c.toNat { s.ch c with own := .held } := rfl
@[simp] theorem takenState_inp (c : ChIdx) (s : State) : (takenState c s).inp = s.inp := rfl
@[simp] theorem takenState_dcm (c : ChIdx) (s : State) : (takenState c s).dcm = s.dcm := rfl
@[simp] theorem takenState_nCh (c : ChIdx) (s : State) : (takenState c s).nCh = s.nCh := by simp [State.nCh, takenState]

theorem takenState_ch (hc : c.toNat < s.nCh) :
    (takenState c s).ch c = { s.ch c with own := .held } ∧ OtherChansKept s (takenState c s) c :=
  ch_of_chans_set rfl hc

/-- Two channels are taken with the same channel registers in either order (R154). -/
theorem takenState_comm {d : ChIdx} (hcd : c ≠ d) (hc : c.toNat < s.nCh) (hd : d.toNat < s.nCh) :
    (takenState d (takenState c s)).chans = (takenState c (takenState d s)).chans := by
  have hn : c.toNat ≠ d.toNat := fun e => hcd (BitVec.eq_of_toNat_eq e)
  have h1 := (takenState_ch hc).2 d hcd.symm
  have h2 := (takenState_ch hd).2 c hcd
  rw [takenState_chans, takenState_chans, h1, takenState_chans, takenState_chans, h2]
  exact List.set_comm _ _ hn

/-- After CH.TAKE another free channel is granted as before (R142, R154). -/
theorem execChTake_second {d : ChIdx} (hcd : d ≠ c) (hclk : s.inp.clkDma = true) (hen : s.dcm.en = true) (hc : c.toNat < s.nCh)
    (hd : d.toNat < s.nCh) (hfree : (s.ch d).own = .free) :
    exec (.chTake d) (takenState c s) = .next (takenState d (takenState c s)) := by
  refine execChTake_taken (by simpa) (by simpa) (by simpa) ?_
  rw [(takenState_ch hc).2 d hcd, hfree]

/-- CH.WAIT past its checks (R146). -/
theorem execChWait_eq (hclk : s.inp.clkDma = true) (hen : s.dcm.en = true) (hc : c.toNat < s.nCh) (hxfer : (s.ch c).own = .xfer)
    (hm : s.me.phase = .idle ∨ s.me.ch ≠ c) : exec (.chWait c) s = holdOrFinish (.chWait c) s := by
  have hex := (chExists_iff s c).2 hc
  have hm' : ¬ (s.me.phase ≠ .idle ∧ s.me.ch = c) := by tauto
  simp [exec, execChWait, withInputs, needsMet, hclk, hen, hex, hxfer, hm']

/-- The state in which CH.WAIT on channel `c` has returned at once (R146). -/
def waitedState (c : ChIdx) (s : State) : State :=
  { s.setHold s.cur none with
    chans := s.chans.set c.toNat (releasedChan (s.ch c))
    trace := s.trace ++ [opRec (.chWait c) s (reply c 0 (chWaitStatus (s.ch c).err).code.toNat)] }

theorem finishWait_waited (c : ChIdx) (s : State) :
    finishWait (.chWait c) (s.setHold s.cur none) = .next (waitedState c s) := by
  have hch : (s.setHold s.cur none).ch c = s.ch c := ch_congr (by simp) c
  rw [finishWait_chWait, hch, setHold_cur, waitedState]
  nth_rw 1 [← setHold_chans s s.cur none, ← setHold_trace s s.cur none]
  rfl

end

/-- The words a built row puts in memory (R107 to R109, R144). -/
theorem memRead_armedState {c : ChIdx} {x : Transfer} {s : State} (hm : Memory.sorted s.mem) :
    (armedState c x s).memRead (s.rowAddr c) 4 = (rowOf x).cfg ∧
    (armedState c x s).memRead (s.rowAddr c + 4) 4 = (rowOf x).srcEnd ∧
    (armedState c x s).memRead (s.rowAddr c + 8) 4 = (rowOf x).dstEnd ∧
    (armedState c x s).memRead (s.rowAddr c + 12) 4 = (rowOf x).next := by
  have hrow : (armedState c x s).readRow (s.rowAddr c) = rowOf x := by
    rw [readRow_congr armedState_mem, readRow_writeRow hm]
  rw [← hrow]
  exact ⟨rfl, rfl, rfl, rfl⟩

/-- CH.ARM of a valid Transfer sets the software trigger, the only one R143 admits. -/
theorem armedChan_of_valid {p : Params} {x : Transfer} (hv : validTransfer p x false = true) :
    armedChan x = { own := .xfer, enabled := true, trig := .sw, active := true, err := .none,
                    rem := BitVec.ofNat 11 x.count.toNat,
                    src := ⟨x.src, BitVec.ofNat 32 (srcSpan x)⟩, dst := ⟨x.dst, BitVec.ofNat 32 (dstSpan x)⟩ } := by
  obtain ⟨-, -, htrig⟩ := validTransfer_count_trig hv
  rw [armedChan, htrig]
  rfl

end Sys2Proof.Machine

open Sys2Proof Sys2Proof.Machine

/-- Settles O6: past the check of its inputs no operation is refused. -/
theorem operationsAreRefusedExactlyWhenAnInputIsOff : Obligations.OperationsAreRefusedExactlyWhenAnInputIsOff := by
  refine ⟨fun i s => ⟨?_, fun r hr => ((exec_refused_iff i s r).1 hr).1⟩, fun p s hp => ?_⟩
  · rw [exec_refused_iff, needsMet_eq_false_iff]
    simp only [true_and]
  · rw [issue, hp]
    simp only [answerIllegal, responseWord_eq]
    rfl

/-- Settles O8: the checks of DMA.ENABLE in their order. -/
theorem dmaEnableSetsTheTableBaseOnce : Obligations.DmaEnableSetsTheTableBaseOnce := by
  intro base s hclk
  have hbytes : s.tableBytes = 16 * s.nCh := rfl
  refine ⟨fun hen => ?_, fun hoff hbad => ?_, fun hoff halign hin hadm => ?_⟩
  · exact answersOnly_of_finish (st := .cfgAlreadyEnabled) (by simp [exec, execDmaEnable, withInputs, needsMet, hclk, hen])
  · refine answersOnly_of_finish (st := .cfgBadBase) ?_
    rw [exec, execDmaEnable, withInputs_on (.dmaEnable base) s _ hclk, if_neg (by simp [hoff])]
    split_ifs with h1 h2 h3
    · rfl
    · rfl
    · rfl
    · rw [Bool.not_eq_true, Bool.not_eq_false', hbytes] at h3
      rcases hbad with h | h | h
      · exact absurd h h1
      · exact absurd h h2
      · exact absurd (h3.symm.trans h) nofun
  · rw [exec, execDmaEnable, withInputs_on (.dmaEnable base) s _ hclk, if_neg (by simp [hoff]), hbytes, if_neg (not_not.2 halign),
      if_neg (Nat.not_lt.2 hin), if_neg (by simp [hadm]), finish_ok]
    rfl

/-- Settles O9: the checks of CH.TAKE in their order. -/
theorem chTakeGrantsAFreeChannelOnce : Obligations.ChTakeGrantsAFreeChannelOnce := by
  intro c s hclk
  have hex : s.chExists c = decide (c.toNat < s.nCh) := rfl
  refine ⟨fun hoff => ?_, fun hen hc => ?_, fun hen hc hown => ?_, fun hen hc hfree => ?_⟩
  · exact answersOnly_of_finish (st := .lifecycle) (by simp [exec, execChTake, withInputs, needsMet, hclk, hoff])
  · exact answersOnly_of_finish (st := .cfgBadChannel)
      (by simp [exec, execChTake, withInputs, needsMet, hclk, hen, hex, Nat.not_lt.2 hc])
  · exact answersOnly_of_finish (st := .chAlreadyTaken)
      (by simp [exec, execChTake, withInputs, needsMet, hclk, hen, hex, hc, hown])
  · obtain ⟨hch, hothers⟩ := takenState_ch hc
    exact ⟨_, execChTake_taken hclk hen hc hfree, hch, hothers, takenState_nCh c s, rfl⟩

/-- Settles O10: CH.TAKE of one channel leaves the other free, and rows are 16 bytes apart. -/
theorem takingTwoDistinctChannelsSucceedsInEitherOrder : Obligations.TakingTwoDistinctChannelsSucceedsInEitherOrder := by
  intro c d s hcd hclk hen hc hd hcfree hdfree
  obtain ⟨hch, -⟩ := takenState_ch (s := s) hc
  obtain ⟨hdh, hothers⟩ := takenState_ch (s := takenState c s) (c := d) (by simpa)
  refine ⟨⟨_, _, _, _, execChTake_taken hclk hen hc hcfree, execChTake_second hcd.symm hclk hen hc hd hdfree,
    execChTake_taken hclk hen hd hdfree, execChTake_second hcd hclk hen hd hc hcfree, ?_, ?_, takenState_comm hcd hc hd, ?_⟩,
    rowAddr_disjoint s hcd⟩
  · rw [hothers c hcd, hch]
  · rw [hdh]
  · simp [takenState, opRec]

/-- Settles O11: the seven conditions, with the spans written out. -/
theorem validTransferIsItsSevenConditions : Obligations.ValidTransferIsItsSevenConditions := by
  intro p t allowPort w spanS spanD
  have hwidth : t.width < 3 ↔ t.width = 0 ∨ t.width = 1 ∨ t.width = 2 := by omega
  rw [validTransfer_iff, hwidth]
  simp only [← Bool.not_eq_true, spanContains_iff]
  rfl

/-- Settles O12: the checks of CH.ARM in their order, then the state it leaves (`execChArm_armed`). -/
theorem chArmBuildsTheRowAndArmsTheChannel : Obligations.ChArmBuildsTheRowAndArmsTheChannel := by
  intro c x s hclk htable hmem
  have hex : s.chExists c = decide (c.toNat < s.nCh) := rfl
  refine ⟨fun hoff => ?_, fun hen hc => ?_, fun hen hc hown => ?_, fun hen hc hheld hbad => ?_, fun hen hc hheld hvalid => ?_⟩
  · exact answersOnly_of_finish (st := .lifecycle) (by simp [exec, execChArm, withInputs, needsMet, hclk, hoff])
  · exact answersOnly_of_finish (st := .cfgBadChannel)
      (by simp [exec, execChArm, withInputs, needsMet, hclk, hen, hex, Nat.not_lt.2 hc])
  · exact answersOnly_of_finish (st := .lifecycle)
      (by simp [exec, execChArm, withInputs, needsMet, hclk, hen, hex, hc, hown])
  · exact answersOnly_of_finish (st := .cfgDegenerateTransfer)
      (by simp [exec, execChArm, withInputs, needsMet, hclk, hen, hex, hc, hheld, hbad])
  · intro row w inc
    obtain ⟨hcfg, hsrc, hdst, hnext⟩ := memRead_armedState (c := c) (x := x) hmem.1
    obtain ⟨hch, hothers⟩ := armedState_ch (x := x) hc
    exact ⟨_, execChArm_armed hclk hen hc hheld hvalid (row_admitted htable hen c hc), hcfg, hsrc, hdst, hnext,
      fun y hy => byteAt_armedState hy, hch.trans (armedChan_of_valid hvalid), hothers, armedState_nCh c x s, rfl⟩

/-- Settles O14: the checks of CH.WAIT in their order, then its hold or its end. -/
theorem chWaitReleasesTheChannelOrBlocks : Obligations.ChWaitReleasesTheChannelOrBlocks := by
  intro c s hclk
  have hex : s.chExists c = decide (c.toNat < s.nCh) := rfl
  refine ⟨fun hoff => ?_, fun hen hc => ?_, fun hen hc hown => ?_, fun hen hc hxfer hbusy hch => ?_, fun hen hc hxfer hm => ?_⟩
  · exact answersOnly_of_finish (st := .lifecycle) (by simp [exec, execChWait, withInputs, needsMet, hclk, hoff])
  · exact answersOnly_of_finish (st := .cfgBadChannel)
      (by simp [exec, execChWait, withInputs, needsMet, hclk, hen, hex, Nat.not_lt.2 hc])
  · exact answersOnly_of_finish (st := .lifecycle)
      (by simp [exec, execChWait, withInputs, needsMet, hclk, hen, hex, hc, hown])
  · exact answersOnly_of_finish (st := .lifecycle)
      (by simp [exec, execChWait, withInputs, needsMet, hclk, hen, hex, hc, hxfer, hbusy, hch])
  · rw [execChWait_eq hclk hen hc hxfer hm]
    obtain ⟨hl, e⟩ | ⟨hl, e⟩ := holdOrFinish_cases (.chWait c) s
    · refine ⟨fun hgo => absurd hgo ((holdLifted_chWait_iff s c).1 hl), fun _ => ?_⟩
      obtain ⟨hch, hothers⟩ := ch_of_chans_set (s := s) (t := waitedState c s) rfl hc
      exact ⟨_, e.trans (finishWait_waited c s), hch, hothers, by simp [State.nCh, waitedState],
        by rw [waitedState]; cases (s.ch c).err <;> rfl⟩
    · exact ⟨fun _ => e, fun hstop => absurd ((holdLifted_chWait_iff s c).2 hstop) (by simp [hl])⟩

end

section
/-! PROOFS. The element step where it moves an element between memory and memory, and where it aborts or is not enabled (R147 to
R151, R366, R367); and what makes a row well-formed, by the bits of `CFG` as numbers (R108, R149). -/

namespace Sys2Proof.Machine

/-! ### The fields of a row -/

/-- A field of a word as a number (R108). -/
theorem extractLsb'_eq_iff (w : Word) (i n : Nat) (v : BitVec n) :
    w.extractLsb' i n = v ↔ w.toNat / 2 ^ i % 2 ^ n = v.toNat := by
  rw [← BitVec.toNat_inj, BitVec.extractLsb'_toNat, Nat.shiftRight_eq_div_pow]

/-- A bit of a word as a number (R108). -/
theorem getLsbD_iff (w : Word) (i : Nat) : w.getLsbD i = true ↔ w.toNat / 2 ^ i % 2 = 1 := by
  rw [BitVec.getLsbD, Nat.testBit_eq_decide_div_mod_eq, decide_eq_true_eq]

/-- `WellFormed(cfg, nx)` by numbers (R149). -/
theorem rowWellFormed_iff (row : Row) :
    rowWellFormed row = true ↔
      row.cfg.toNat % 2 = 1 ∧ row.cfg.toNat / 2 ^ 8 % 4 ≠ 3 ∧ row.cfg.toNat / 2 % 2 ^ 7 = 0 ∧ row.cfg.toNat / 2 ^ 10 % 4 = 0 ∧
      row.cfg.toNat / 2 ^ 13 % 2 = 0 ∧ row.cfg.toNat / 2 ^ 15 % 2 = 0 ∧ row.cfg.toNat / 2 ^ 26 = 0 ∧ row.next = 0#32 := by
  have htop : row.cfg.toNat / 2 ^ 26 % 2 ^ 6 = row.cfg.toNat / 2 ^ 26 := by
    have := row.cfg.isLt
    omega
  simp only [rowWellFormed, Bool.and_eq_true, decide_eq_true_eq, ne_eq, extractLsb'_eq_iff, htop, and_assoc]
  simp

theorem cfgWidth_eq (cfg : Word) : cfgWidth cfg = cfg.toNat / 2 ^ 8 % 4 := by
  rw [cfgWidth, BitVec.extractLsb'_toNat, Nat.shiftRight_eq_div_pow]

theorem cfgCount_eq (cfg : Word) : cfgCount cfg = cfg.toNat / 2 ^ 16 % 2 ^ 10 + 1 := by
  rw [cfgCount, BitVec.extractLsb'_toNat, Nat.shiftRight_eq_div_pow]

/-- An element of a well-formed row is 1, 2 or 4 bytes wide (R108, R149). -/
theorem cfgWidth_lt_three {row : Row} (h : rowWellFormed row = true) : cfgWidth row.cfg < 3 := by
  obtain ⟨-, hw, -⟩ := (rowWellFormed_iff row).1 h
  rw [cfgWidth_eq]
  omega

/-- `ElemAddr` with the step written out (R109). -/
theorem elemAddr_eq (endA : Word) (r : Count) (width : Nat) (inc : Bool) :
    elemAddr endA r width inc =
      endA - if inc = true then (BitVec.ofNat 32 r.toNat - 1#32) * BitVec.ofNat 32 (2 ^ width) else 0#32 := by
  cases inc <;> simp [elemAddr, elemBytes, incWord]

/-! ### The move between memory and memory -/

section
variable {s : State} {c : ChIdx}

/-- The state after channel `c` has moved `w` bytes of memory from `sa` to `da` (R148). -/
def elementMoved (c : ChIdx) (sa da : Word) (w : Nat) (s : State) : State :=
  { s with
    mem := s.mem.writeLE da.toNat w (s.memRead sa.toNat w).toNat
    chans := s.chans.set c.toNat (countedChan (s.ch c))
    haz := (noteMove c ⟨sa, false⟩ ⟨da, false⟩ w s).haz
    trace := s.trace ++ [.dma c sa da w (s.memRead sa.toNat w)] }

/-- The element step of a good row between admitted places of memory moves an element (R148). -/
theorem takeTurn_seq_element {row : Row} {sa da : Word} {w : Nat} (hmay : SeqMayMove s c)
    (hadm : rowAdmitted s.par (s.rowAddr c) = true) (hrow : s.readRow (s.rowAddr c) = row) (hwf : rowWellFormed row = true)
    (hcount : (s.ch c).rem.toNat ≤ cfgCount row.cfg) (hw : elemBytes (cfgWidth row.cfg) = w)
    (hsp : rowSource s.par row (s.ch c).rem = ⟨sa, false⟩) (hdp : rowDest s.par row (s.ch c).rem = ⟨da, false⟩)
    (hsrc : memAdmit s.par sa.toNat w = true) (hdst : memAdmit s.par da.toNat w = true) :
    takeTurn (.seq c) s = .next (elementMoved c sa da w s) := by
  have hgood : rowAborts s c row = false :=
    rowAborts_eq_false hwf hcount (by simp [hsp, hdp]) (.inr (by rwa [hsp, hw])) (.inr (by rwa [hdp, hw]))
  rw [takeTurn_seq_moves hmay hadm (hrow ▸ hgood), hrow, moveElement_eq c row s hsp hdp hw rfl]
  rfl

/-- The element is at the destination, and the rest of memory is as before (R71, R72, R148). -/
theorem elementMoved_bytes {sa da : Word} {w : Nat} (hw : w ≤ 4) (hm : Memory.sorted s.mem) :
    (∀ j, j < w → (elementMoved c sa da w s).byteAt (da.toNat + j) = s.byteAt (sa.toNat + j)) ∧
    BytesKeptOutside s (elementMoved c sa da w s) da.toNat w := by
  refine ⟨fun j hj => BitVec.eq_of_toNat_eq ?_, fun y hy => read_writeLE_other _ _ _ _ _ hy⟩
  rw [State.byteAt, elementMoved, read_writeLE_at hm hj, memRead_toNat s sa.toNat hw, readLE_byte s.mem hj, State.byteAt]

/-! ### The abort -/

/-- The element step that is not enabled passes (R148). -/
theorem takeTurn_seq_waits (hno : ¬ SeqMayMove s c) : takeTurn (.seq c) s = .next s := by
  simp [takeTurn, seqStep, mt (seqEnabled_iff s c).1 hno]

/-- The element step whose row is not in admitted memory, or shows a cause to abort, moves nothing (R73, R148, R150). -/
theorem takeTurn_seq_aborts (hmay : SeqMayMove s c)
    (hbad : rowAdmitted s.par (s.rowAddr c) = false ∨ rowAborts s c (s.readRow (s.rowAddr c)) = true) :
    takeTurn (.seq c) s = .next (abort c s) := by
  rw [takeTurn, seqStep, if_neg (by simp [(seqEnabled_iff s c).2 hmay])]
  split_ifs with hadm hrow
  · rfl
  · rfl
  · simp_all

/-- The causes of an abort that a fetched row shows, one by one (R148 to R150, R196). -/
theorem rowAborts_iff (row : Row) :
    let w := elemBytes (cfgWidth row.cfg)
    let sp := rowSource s.par row (s.ch c).rem
    let dp := rowDest s.par row (s.ch c).rem
    rowAborts s c row = true ↔
      rowWellFormed row = false ∨ cfgCount row.cfg < (s.ch c).rem.toNat ∨
      ((sp.port = true ∨ dp.port = true) ∧ (w ≠ 1 ∨ (s.ch c).trig ≠ .i2cMst)) ∨
      (sp.port = false ∧ memAdmit s.par sp.addr.toNat w = false) ∨
      (dp.port = false ∧ memAdmit s.par dp.addr.toNat w = false) := by
  simp only [rowAborts, Bool.or_eq_true, Bool.and_eq_true, Bool.not_eq_true', decide_eq_true_eq, gt_iff_lt, or_assoc]

end
end Sys2Proof.Machine

open Sys2Proof Sys2Proof.Machine

/-- Settles O38: `takeTurn_seq_element`, and what the state it leaves says. -/
theorem elementStepMovesOneElement : Obligations.ElementStepMovesOneElement := by
  intro c s hmay hadm hmem row r w step32 sa da hwf hcount hsa hda hsrc hdst
  have hsp : rowSource s.par row r = ⟨sa, false⟩ := by
    rw [rowSource, elemAddr_eq]
    exact congrArg (Endpoint.mk sa) (decide_eq_false hsa)
  have hdp : rowDest s.par row r = ⟨da, false⟩ := by
    rw [rowDest, elemAddr_eq]
    exact congrArg (Endpoint.mk da) (decide_eq_false hda)
  obtain ⟨hpos, hfour⟩ : 0 < w ∧ w ≤ 4 := elemBytes_bounds (cfgWidth_lt_three hwf)
  clear_value sa da
  obtain ⟨hbytes, hkept⟩ := elementMoved_bytes (c := c) (sa := sa) (da := da) hfour hmem.1
  obtain ⟨hch, hothers⟩ := ch_of_chans_set (t := elementMoved c sa da w s) rfl hmay.chExists
  exact ⟨_, takeTurn_seq_element hmay hadm rfl hwf hcount rfl hsp hdp hsrc hdst, hbytes, hkept,
    hch.trans (countedChan_of_active hmay.active), hothers, notesMove_of_haz hpos hmay.chExists rfl, rfl⟩

/-- Settles O39: the fields of a row by numbers, then the causes of an abort (`rowAborts_iff`). -/
theorem elementStepAbortsOnABadRowOrEndpoint : Obligations.ElementStepAbortsOnABadRowOrEndpoint := by
  refine ⟨fun row => ⟨rowWellFormed_iff row, cfgWidth_eq _, getLsbD_iff _ 12, getLsbD_iff _ 14, cfgCount_eq _⟩,
    fun c s => ⟨takeTurn_seq_waits, ?_⟩⟩
  intro hmay row r w sa da port hbad
  obtain ⟨hch, hothers⟩ := ch_of_chans_set (t := abort c s) rfl hmay.chExists
  refine ⟨_, takeTurn_seq_aborts hmay (hbad.imp_right fun h => (rowAborts_iff row).2 ?_), hch, hothers, rfl⟩
  simp only [rowSource, rowDest, decide_eq_true_eq, decide_eq_false_iff_not]
  exact h
end

section
/-! PROOFS. What only RESET undoes, and how ownership moves (R155, R158, R240, R253, R361): no agent moves a handle, a channel's
enabled flag or the session; the host's operations move ownership along the table and never take an enable back. -/

namespace Sys2Proof.Machine

/-! ### What an agent leaves alone -/

/-- A channel keeps its owner and its enabled flag. -/
structure HandleKept (x y : Chan) : Prop where
  own : y.own = x.own
  enabled : y.enabled = x.enabled

/-- The slave keeps its enable, its address, the session state, the kept byte and the Fault flag. -/
structure SessionKept (x y : Slave) : Prop where
  en : y.en = x.en
  addr : y.addr = x.addr
  state : y.state = x.state
  last : y.last = x.last
  lastValid : y.lastValid = x.lastValid
  fatal : y.fatal = x.fatal

/-- What every step but the host's operations and RESET leaves alone (R155, R158, R240). -/
structure AgentKept (s t : State) : Prop where
  dcm : t.dcm = s.dcm
  handle : ∀ c, HandleKept (s.ch c) (t.ch c)
  session : SessionKept s.sl t.sl

theorem HandleKept.refl (x : Chan) : HandleKept x x := ⟨rfl, rfl⟩

theorem HandleKept.trans {x y z : Chan} (h : HandleKept x y) (h' : HandleKept y z) : HandleKept x z :=
  ⟨h'.own.trans h.own, h'.enabled.trans h.enabled⟩

theorem SessionKept.refl (x : Slave) : SessionKept x x := ⟨rfl, rfl, rfl, rfl, rfl, rfl⟩

section
variable {s t u : State} {c : ChIdx}

/-- What the written channel does, each channel does: the others stay. -/
theorem ch_rel_of_chans_set {R : Chan → Chan → Prop} (hrefl : ∀ y, R y y) {x : Chan} (h : t.chans = s.chans.set c.toNat x)
    (hx : R (s.ch c) x) (d : ChIdx) : R (s.ch d) (t.ch d) := by
  rw [ch_congr (s := s.setCh c x) h, ch_setCh]
  split_ifs with hd
  · exact hd.1 ▸ hx
  · exact hrefl _

theorem handleKept_of_chans_eq (h : t.chans = s.chans) (d : ChIdx) : HandleKept (s.ch d) (t.ch d) := by
  rw [ch_congr h]
  exact .refl _

theorem AgentKept.of_eq (hdcm : t.dcm = s.dcm) (hch : t.chans = s.chans) (hsl : SessionKept s.sl t.sl) : AgentKept s t :=
  ⟨hdcm, handleKept_of_chans_eq hch, hsl⟩

/-! ### The bus procedures and the session -/

theorem slaveLatch_session (s : State) (ev : EvCode) : SessionKept s.sl (slaveLatch ev s).sl := by
  rw [slaveLatch_sl]
  split_ifs
  · exact ⟨rfl, rfl, rfl, rfl, rfl, rfl⟩
  · exact .refl _

theorem driveAddress_session (s : State) (i : Initiator) (ab : Byte) (pr : Bool) :
    SessionKept s.sl (driveAddress i ab pr s).sl := by
  by_cases hown : ownAddressed s ab
  · rw [driveAddress_sl_own s i ab pr hown]
    split_ifs <;> exact ⟨rfl, rfl, rfl, rfl, rfl, rfl⟩
  · rw [driveAddress_sl_ext s i ab pr hown]
    exact ⟨rfl, rfl, rfl, rfl, rfl, rfl⟩

theorem driveData_session (s : State) (i : Initiator) (b : Byte) : SessionKept s.sl (driveData i b s).sl := by
  rw [driveData_sl]
  split_ifs <;> exact ⟨rfl, rfl, rfl, rfl, rfl, rfl⟩

theorem afterAddrAck_session (s : State) : SessionKept s.sl (afterAddrAck s).sl := by
  rw [afterAddrAck_sl]
  split_ifs
  · exact slaveLatch_session s evTxReady
  · exact .refl _

theorem readAck_session (s : State) (d : Driver) : SessionKept s.sl (readAck d s).sl := by
  rw [readAck_sl]
  split_ifs
  · exact slaveLatch_session s evTxReady
  · exact .refl _

theorem busStop_session (s : State) (d : Driver) : SessionKept s.sl (busStop d s).sl := ⟨rfl, rfl, rfl, rfl, rfl, rfl⟩

/-! ### The agents -/

theorem setCh_handle {x : Chan} (hx : HandleKept (s.ch c) x) (d : ChIdx) : HandleKept (s.ch d) ((s.setCh c x).ch d) :=
  ch_rel_of_chans_set HandleKept.refl (setCh_chans s c x) hx d

theorem abort_handle (s : State) (c d : ChIdx) : HandleKept (s.ch d) ((abort c s).ch d) :=
  setCh_handle (x := { s.ch c with err := .dmaAbort, active := false }) ⟨rfl, rfl⟩ d

theorem stopChannel_handle (s : State) (c d : ChIdx) : HandleKept (s.ch d) ((stopChannel c s).ch d) :=
  setCh_handle (x := { s.ch c with active := false }) ⟨rfl, rfl⟩ d

/-- Giving up a transaction stops its channel, which the host still holds (R197, R198, R208). -/
theorem AgentKept.masterFault (h : AgentKept s u) (f : MFault) : AgentKept s (masterFault f u) where
  dcm := by rw [masterFault_dcm, h.dcm]
  handle d := by
    rw [ch_congr (masterFault_chans u f)]
    exact (h.handle d).trans (stopChannel_handle u u.me.ch d)
  session := by
    rw [masterFault_sl]
    exact h.session

theorem seqStep_kept (c : ChIdx) (s : State) : AgentKept s (seqStep c s) := by
  have hm := seqStep_move c s
  refine ⟨seqMove_dcm hm, fun d => ?_, by rw [(seqStep_sl_bus c s).1]; exact .refl _⟩
  generalize seqStep c s = t at hm
  cases hm with
  | waits => exact .refl _
  | aborts => exact abort_handle s c d
  | moves => exact ch_rel_of_chans_set HandleKept.refl (moveElement_moved c (s.readRow (s.rowAddr c)) s).chans ⟨rfl, rfl⟩ d

theorem mfuNack_kept (s : State) : AgentKept s (mfuNack s) where
  dcm := rfl
  handle d := (setCh_handle (x := { s.ch s.me.ch with err := .periphNack }) ⟨rfl, rfl⟩ d).trans (stopChannel_handle _ s.me.ch d)
  session := busStop_session s .ownMaster

theorem mfuMove_kept {m : MfuStep} (hm : MfuMove s m t) : AgentKept s t := by
  have hdcm := mfuMove_dcm hm
  cases hm with
  | waits => exact .of_eq rfl rfl (.refl _)
  | startWon _ present => exact .of_eq hdcm (by simp) (driveAddress_session s .own _ present)
  | startLost _ present b => exact (AgentKept.of_eq (by simp) (by simp) (driveAddress_session s .ext b present)).masterFault _
  | wdriveWon => exact .of_eq hdcm (by simp) (driveData_session (s.setMe (byteTaken s.me)) .own s.me.dat)
  | wdriveLost _ b =>
    exact (AgentKept.of_eq (s := s) (by simp) (by simp) (driveData_session (s.setMe (byteTaken s.me)) .ext b)).masterFault _
  | wdone => exact .of_eq rfl rfl (busStop_session s .ownMaster)
  | rrespondAck => exact .of_eq hdcm (by simp) (readAck_session s .ownMaster)
  | rrespondLast => exact .of_eq rfl rfl (busStop_session s .ownMaster)
  | nack => exact mfuNack_kept s
  | dabort => exact .of_eq rfl rfl (busStop_session s .ownMaster)

theorem busMove_kept (hm : BusMove s t) : AgentKept s t := by
  cases hm <;> exact .of_eq rfl rfl (.refl _)

theorem envTimeout_kept (s : State) : AgentKept s (envTimeout s) := by
  simp only [envTimeout]
  refine AgentKept.masterFault ?_ _
  split_ifs <;> exact .of_eq rfl rfl (.refl _)

theorem envMove_kept {e : EnvStep} (hm : EnvMove s e t) : AgentKept s t := by
  have hdcm := envMove_dcm hm
  cases hm with
  | waits => exact .of_eq rfl rfl (.refl _)
  | addrAck => exact .of_eq hdcm (by simp) (afterAddrAck_session (s.record _))
  | addrNack | masterNack => exact .of_eq rfl rfl (.refl _)
  | wdata ack => cases ack <;> exact .of_eq rfl rfl (.refl _)
  | rdata b => exact .of_eq hdcm (by simp) (by rw [supplyData_sl]; exact .refl _)
  | masterStart a7 rw present => exact .of_eq hdcm (by simp) (driveAddress_session s .ext _ present)
  | masterData b => exact .of_eq hdcm (by simp) (driveData_session s .ext b)
  | masterAck => exact .of_eq hdcm (by simp) (readAck_session s .extMaster)
  | masterStop => exact .of_eq rfl rfl (busStop_session s .extMaster)
  | masterRestart a7 rw present =>
    obtain ⟨hen, haddr, hstate, hlast, hvalid, hfatal⟩ := driveAddress_session
      ((s.setBus { s.bus with tgt := .none }).setSl { s.sl with sel := .nsel }) .ext (addressByte a7 rw) present
    exact .of_eq hdcm (by simp [envXmRestart]) ⟨hen, haddr, hstate, hlast, hvalid, hfatal⟩
  | timeout => exact envTimeout_kept s
  | slaveFault => exact .of_eq rfl rfl ⟨rfl, rfl, rfl, rfl, rfl, rfl⟩

theorem outsideMove_kept {o : OutsideStep} (hm : OutsideMove s o t) : AgentKept s t := by
  have hdcm := outsideMove_dcm hm
  cases hm with
  | inputs | load | store => exact .of_eq rfl rfl (.refl _)
  | append => exact .of_eq hdcm (by simp) (by rw [appendPacket_sl]; exact .refl _)

/-- A turn of an agent or of an outside party (R20). -/
theorem takeTurn_agent_kept {turn : Turn} (hreset : turn ≠ .reset) (hhost : ∀ x, turn ≠ .host x)
    (ht : takeTurn turn s = .next t) : AgentKept s t := by
  cases turn with
  | host x => exact absurd rfl (hhost x)
  | seq c => cases ht; exact seqStep_kept c s
  | mfu m => cases ht; exact mfuMove_kept (mfuStep_move m s)
  | bus => cases ht; exact busMove_kept (busStep_move s)
  | env e => cases ht; exact envMove_kept (envStep_move e s)
  | reset => exact absurd rfl hreset
  | outside o => exact outsideMove_kept (outsideStep_move ht)

/-! ### What the host's operations cannot undo -/

/-- The part of the state that only RESET takes back (R155, R253, R361). -/
structure Persists (s t : State) : Prop where
  dcm : s.dcm.en = true → t.dcm = s.dcm
  slave : s.sl.en = true → t.sl.en = true ∧ t.sl.addr = s.sl.addr
  enabled : ∀ c, (s.ch c).enabled = true → (t.ch c).enabled = true
  fatal : s.sl.fatal = true → t.sl.fatal = true
  state : s.sl.state ≠ .idle → t.sl.state ≠ .idle
  lastValid : s.sl.lastValid = true → t.sl.lastValid = true

theorem AgentKept.persists (h : AgentKept s t) : Persists s t where
  dcm _ := h.dcm
  slave hen := ⟨h.session.en.trans hen, h.session.addr⟩
  enabled c hen := (h.handle c).enabled.trans hen
  fatal hf := h.session.fatal.trans hf
  state hi := by rwa [h.session.state]
  lastValid hv := h.session.lastValid.trans hv

theorem Persists.of_eq (h : Persists u t) (hdcm : u.dcm = s.dcm) (hch : u.chans = s.chans) (hsl : u.sl = s.sl) :
    Persists s t := by
  obtain ⟨h1, h2, h3, h4, h5, h6⟩ := h
  rw [hdcm] at h1
  rw [hsl] at h2 h4 h5 h6
  exact ⟨h1, h2, fun c => by rw [← ch_congr hch c]; exact h3 c, h4, h5, h6⟩

/-- An operation that leaves the slave and the table alone and clears no enabled flag. -/
theorem Persists.of_chan {x : Chan} (hdcm : t.dcm = s.dcm) (hsl : t.sl = s.sl) (hch : t.chans = s.chans.set c.toNat x)
    (hx : (s.ch c).enabled = true → x.enabled = true) : Persists s t := by
  refine ⟨fun _ => hdcm, ?_, fun d => ?_, ?_, ?_, ?_⟩
  · rw [hsl]
    exact fun hen => ⟨hen, rfl⟩
  · exact ch_rel_of_chans_set (R := fun y z => y.enabled = true → z.enabled = true) (fun _ => id) hch hx d
  all_goals
    rw [hsl]
    exact id

/-- A case of S.SERVICE moves the session on: never back to Idle, out of Fault, or to no kept byte (R240, R244 to R249). -/
theorem serviceCase_session (hc : ServiceCase s u) :
    (s.sl.fatal = true → u.sl.fatal = true) ∧ u.sl.state ≠ .idle ∧ (s.sl.lastValid = true → u.sl.lastValid = true) := by
  cases hc with
  | addrMatch =>
    obtain ⟨-, -, e, hsl⟩ := afterAddrAck_regs
      ((s.setSl { s.sl with state := .addressMatched, pend := evNone }).record (.sym .ack .ownSlave))
    rw [serviceAddrMatch, hsl]
    exact ⟨id, nofun, id⟩
  | rxReady =>
    rw [serviceRxReady, slaveAckData_sl]
    exact ⟨id, nofun, fun _ => rfl⟩
  | txReady =>
    rw [serviceTxReady, supplyData_sl]
    exact ⟨id, nofun, id⟩
  | underrun =>
    unfold serviceUnderrun
    split
    · exact ⟨id, nofun, id⟩
    · rw [supplyData_sl]
      exact ⟨id, nofun, id⟩
  | fault => exact ⟨fun _ => rfl, nofun, id⟩

theorem opEffect_persists {i : Instr} {w : Word} (he : OpEffect s i w u) : Persists s u := by
  cases he with
  | unchanged => exact ⟨fun _ => rfl, fun hen => ⟨hen, rfl⟩, fun _ => id, id, id, id⟩
  | enabled _ hoff =>
    exact ⟨fun hen => absurd (hoff.symm.trans hen) nofun, fun hen => ⟨hen, rfl⟩, fun _ => id, id, id, id⟩
  | taken c => exact .of_chan (c := c) rfl rfl (setCh_chans ..) id
  | described dir _ ptr len c => exact .of_chan (c := c) rfl rfl (setCh_chans ..) (by cases dir <;> exact id)
  | armed c x => exact .of_chan (c := c) (x := armedChan x) (by simp) (by simp) (by simp) fun _ => rfl
  | chWaited c => exact .of_chan (c := c) (x := releasedChan (s.ch c)) (by simp) (by simp) (by simp) id
  | started => exact .of_chan (c := s.me.ch) (x := startedChan s.me.len (s.ch s.me.ch)) (by simp) (by simp) (by simp) fun _ => rfl
  | mWaited => exact .of_chan (c := s.me.ch) (x := releasedChan (s.ch s.me.ch)) (by simp) (by simp) (by simp) id
  | slaveEnabled _ _ hoff =>
    exact ⟨fun _ => rfl, fun hen => absurd (hoff.symm.trans hen) nofun, fun _ => id, id, id, id⟩
  | serviced w u _ _ hc =>
    have hk := serviceCase_kept hc
    obtain ⟨hen, haddr, -⟩ := (serviceCase_regs hc).sl
    obtain ⟨hfatal, hstate, hvalid⟩ := serviceCase_session hc
    exact ⟨fun _ => hk.dcm, fun h => ⟨hen.trans h, haddr⟩, fun c => by rw [ch_congr hk.chans]; exact id, hfatal,
      fun _ => hstate, hvalid⟩

theorem Persists.record (h : Persists s u) (e : Rec) : Persists s (u.record e) :=
  ⟨h.dcm, h.slave, h.enabled, h.fatal, h.state, h.lastValid⟩

theorem exec_persists {i : Instr} (h : exec i s = .next t) : Persists s t := by
  obtain ⟨w, u, hu, rfl⟩ | ⟨k, -, rfl⟩ := exec_outcome h
  · exact (opEffect_persists hu).record _
  · exact (AgentKept.of_eq (by simp) (by simp) (by rw [setHold_sl]; exact .refl _)).persists

theorem waitReturned_chans (s : State) (x : Ctx) (i : Instr) (c : ChIdx) (me : Master) (status : Nat) :
    (s.waitReturned x i c me status).chans = s.chans.set c.toNat (releasedChan (s.ch c)) := by
  simp [State.waitReturned]

theorem waitReturned_persists (s : State) (x : Ctx) (i : Instr) (c : ChIdx) (me : Master) (status : Nat) :
    Persists s (s.waitReturned x i c me status) :=
  .of_chan (by simp [State.waitReturned]) (by simp [State.waitReturned]) (waitReturned_chans ..) id

theorem hostMove_persists {x : Ctx} (hm : HostMove x s t) : Persists s t := by
  cases hm with
  | passes | staysBlocked => exact AgentKept.persists (.of_eq rfl rfl (.refl _))
  | chWaitEnds | mWaitEnds => exact waitReturned_persists ..
  | rejects => exact (AgentKept.of_eq (by simp) (by simp) (by simp [SessionKept.refl])).persists
  | executes p rest i t hp hd he => exact (exec_persists he).of_eq (by simp) (by simp) (by simp)

/-- Every turn but RESET (R155, R361). -/
theorem takeTurn_persists {turn : Turn} (hreset : turn ≠ .reset) (ht : takeTurn turn s = .next t) : Persists s t := by
  by_cases hhost : ∃ x, turn = .host x
  · obtain ⟨x, rfl⟩ := hhost
    exact hostMove_persists (hostTurn_move ht)
  · exact (takeTurn_agent_kept hreset (fun x e => hhost ⟨x, e⟩) ht).persists

/-! ### The session is S.SERVICE's -/

/-- No other operation moves the session state or the kept byte (R240). -/
theorem exec_session {i : Instr} (h : exec i s = .next t) (hi : i ≠ .sService) :
    t.sl.state = s.sl.state ∧ t.sl.last = s.sl.last ∧ t.sl.lastValid = s.sl.lastValid := by
  obtain ⟨w, u, hu, rfl⟩ | ⟨k, -, rfl⟩ := exec_outcome h
  · rw [record_sl]
    cases hu with
    | serviced => exact absurd rfl hi
    | _ => simp
  · simp

theorem takeTurn_session {turn : Turn} (hreset : turn ≠ .reset) (ht : takeTurn turn s = .next t)
    (hserve : ∀ x p rest, turn = .host x → (s.ctx x).hold = none → (s.ctx x).prog = p :: rest → decode p ≠ some .sService) :
    t.sl.state = s.sl.state ∧ t.sl.last = s.sl.last ∧ t.sl.lastValid = s.sl.lastValid := by
  by_cases hhost : ∃ x, turn = .host x
  · obtain ⟨x, rfl⟩ := hhost
    have hm := hostTurn_move ht
    cases hm with
    | passes | staysBlocked => exact ⟨rfl, rfl, rfl⟩
    | chWaitEnds | mWaitEnds => simp [State.waitReturned]
    | rejects => simp
    | executes p rest i t hp hd he =>
      have hi : i ≠ .sService := fun e => hserve x p rest rfl (by rw [hp]) (by rw [hp]) (e ▸ hd)
      simpa using exec_session he hi
  · have hk := (takeTurn_agent_kept hreset (fun x e => hhost ⟨x, e⟩) ht).session
    exact ⟨hk.state, hk.last, hk.lastValid⟩

/-! ### The ownership table -/

/-- A channel that has another owner is the one that was written. -/
theorem written_of_own_ne {d : ChIdx} {x : Chan} (h : t.chans = s.chans.set d.toNat x) (hd : d.toNat < s.nCh)
    (hne : (t.ch c).own ≠ (s.ch c).own) : c = d ∧ (t.ch c).own = x.own := by
  obtain ⟨hch, hothers⟩ := ch_of_chans_set h hd
  have hcd : c = d := by_contra fun hcd => hne (by rw [hothers c hcd])
  exact ⟨hcd, by rw [hcd, hch]⟩

/-- CH.WAIT hands back a channel that is not the master's (R146, R158). -/
theorem ownershipRow_chWait (hxfer : (s.ch c).own = .xfer) (hm : s.me.phase = .idle ∨ s.me.ch ≠ c)
    (hl : s.holdLifted (.chWait c) = true) : OwnershipRow (.chWait c) s c (s.ch c).own .held :=
  .inr (.inr ⟨hxfer, rfl, .inl ⟨rfl, by simpa [State.holdLifted] using hl, hm⟩⟩)

/-- M.WAIT hands back the master's channel (R158, R204). -/
theorem ownershipRow_mWait (hxfer : (s.ch s.me.ch).own = .xfer) (hl : s.holdLifted (.mWait s.me.ch) = true) :
    OwnershipRow .mWait s s.me.ch (s.ch s.me.ch).own .held := by
  obtain ⟨hdone, hstop⟩ := (holdLifted_mWait_iff s _).1 hl
  exact .inr (.inr ⟨hxfer, rfl, .inr ⟨rfl, rfl, hdone, hstop⟩⟩)

theorem OwnershipRow.congr {i : Instr} {a b : Own} (h : OwnershipRow i u c a b) (hpar : u.par = s.par) (hdcm : u.dcm = s.dcm)
    (hme : u.me = s.me) (hch : u.ch c = s.ch c) : OwnershipRow i s c a b := by
  rw [OwnershipRow, hpar, hdcm, hme, hch] at h
  exact h

/-- No row of the table frees a channel (R158). -/
theorem OwnershipRow.after_ne_free {i : Instr} {a b : Own} (h : OwnershipRow i s c a b) : b ≠ .free := by
  obtain ⟨-, rfl, -⟩ | ⟨-, rfl, -⟩ | ⟨-, rfl, -⟩ := h <;> nofun

/-- The ways an operation ends, against the table; while the master is busy its channel is in flight (R42 item 2). -/
theorem opEffect_ownership {i : Instr} {w : Word} (hbusy : s.me.phase ≠ .idle → (s.ch s.me.ch).own = .xfer)
    (he : OpEffect s i w u) (hne : (u.ch c).own ≠ (s.ch c).own) : OwnershipRow i s c (s.ch c).own (u.ch c).own := by
  cases he with
  | taken d hen hd hfree =>
    obtain ⟨rfl, e⟩ := written_of_own_ne (setCh_chans ..) hd hne
    rw [e]
    exact .inl ⟨hfree, rfl, rfl, hen⟩
  | armed d x hen hd hheld hvalid =>
    obtain ⟨rfl, e⟩ := written_of_own_ne (x := armedChan x) (by simp) hd hne
    rw [e]
    exact .inr (.inl ⟨hheld, rfl, .inl ⟨x, rfl, hvalid⟩⟩)
  | chWaited d hd hxfer hm hl =>
    obtain ⟨rfl, e⟩ := written_of_own_ne (x := releasedChan (s.ch d)) (by simp) hd hne
    rw [e]
    exact ownershipRow_chWait hxfer hm hl
  | described dir addr ptr len d _ hlen hidle hd _ hheld =>
    obtain ⟨rfl, e⟩ := written_of_own_ne (x := describedChan dir ptr len (s.ch d)) (by simp) hd hne
    rw [e]
    cases dir with
    | w => exact .inr (.inl ⟨hheld, rfl, .inr ⟨addr, ptr, len, .inl rfl, hlen, hidle⟩⟩)
    | r => exact .inr (.inl ⟨hheld, rfl, .inr ⟨addr, ptr, len, .inr rfl, hlen, hidle⟩⟩)
  | started =>
    refine absurd (ch_rel_of_chans_set (R := fun y z => z.own = y.own) (fun _ => rfl) (c := s.me.ch)
      (x := startedChan s.me.len (s.ch s.me.ch)) ?_ rfl c) hne
    simp
  | mWaited hidle _ hl =>
    have hxfer := hbusy hidle
    obtain ⟨rfl, e⟩ := written_of_own_ne (d := s.me.ch) (x := releasedChan (s.ch s.me.ch)) (by simp)
      (exists_of_own s _ (by simp [hxfer])) hne
    rw [e]
    exact ownershipRow_mWait hxfer hl
  | serviced w u _ _ hc => exact absurd (by rw [ch_congr (serviceCase_kept hc).chans]) hne
  | unchanged | enabled | slaveEnabled => exact absurd rfl hne

theorem exec_ownership {i : Instr} (hbusy : s.me.phase ≠ .idle → (s.ch s.me.ch).own = .xfer) (h : exec i s = .next t)
    (hne : (t.ch c).own ≠ (s.ch c).own) : OwnershipRow i s c (s.ch c).own (t.ch c).own := by
  obtain ⟨w, u, hu, rfl⟩ | ⟨k, -, rfl⟩ := exec_outcome h
  · have hrow := opEffect_ownership hbusy hu hne
    exact hrow
  · exact absurd (by rw [ch_congr (setHold_chans ..)]) hne

/-- The turns of the host: the row is that of the WAIT it has ended or of the operation it has issued (R158). INT is never in a
WAIT (R338). -/
theorem hostMove_ownership {x : Ctx} (hok : MasterOk s) (hint : IntServesOnly s) (hm : HostMove x s t)
    (hne : (t.ch c).own ≠ (s.ch c).own) :
    ((s.ctx x).hold = some (.chWait c) ∧ OwnershipRow (.chWait c) s c (s.ch c).own (t.ch c).own) ∨
    ((s.ctx x).hold = some (.mWait c) ∧ OwnershipRow .mWait s c (s.ch c).own (t.ch c).own) ∨
    ((s.ctx x).hold = none ∧ ∃ p rest i, (s.ctx x).prog = p :: rest ∧ decode p = some i ∧
      OwnershipRow i s c (s.ch c).own (t.ch c).own) := by
  have hfg : ∀ {k}, (s.ctx x).hold = some k → s.fg.hold = some k := fun hk => by
    cases x with
    | fg => exact hk
    | int => exact absurd (hint.1.symm.trans hk) nofun
  cases hm with
  | passes | staysBlocked => exact absurd rfl hne
  | chWaitEnds d hk hl =>
    obtain ⟨hxfer, hidle⟩ := hok.chHold d (hfg hk)
    obtain ⟨rfl, e⟩ := written_of_own_ne (waitReturned_chans ..) (exists_of_own s d (by simp [hxfer])) hne
    rw [e]
    exact .inl ⟨hk, ownershipRow_chWait hxfer hidle hl⟩
  | mWaitEnds d hk hl =>
    obtain ⟨rfl, hidle, -⟩ := hok.mHold d (hfg hk)
    obtain ⟨hxfer, -⟩ := hok.busy hidle
    obtain ⟨rfl, e⟩ := written_of_own_ne (waitReturned_chans ..) (exists_of_own s s.me.ch (by simp [hxfer])) hne
    rw [e]
    exact .inr (.inl ⟨hk, ownershipRow_mWait hxfer hl⟩)
  | rejects => exact absurd (congrArg Chan.own (ch_congr (by simp) c)) hne
  | executes p rest i t hp hd he =>
    have hch : ∀ d, ((s.setCtx x ⟨rest, none⟩).setCur x).ch d = s.ch d := ch_congr (by simp)
    have hrow := exec_ownership (c := c) (by simpa [hch] using fun hidle => (hok.busy hidle).1) he (by rwa [hch])
    rw [hch] at hrow
    exact .inr (.inr ⟨by rw [hp], p, rest, i, by rw [hp], hd, hrow.congr (by simp) (by simp) (by simp) (hch c)⟩)

end
end Sys2Proof.Machine

open Sys2Proof Sys2Proof.Machine

/-- Settles O34: operations by the ways they end, the host by its moves; the other parties keep every handle. -/
theorem ownershipMovesOnlyAlongTheTable : Obligations.OwnershipMovesOnlyAlongTheTable := by
  refine ⟨fun i s t c hok h hne => exec_ownership (fun hidle => (hok.busy hidle).1) h hne,
    fun x s t c hok hint ht hne => hostMove_ownership hok hint (hostTurn_move ht) hne,
    fun turn s t c hok hint hreset ht => ⟨fun hfree => by_contra fun hne => ?_, fun hhost => ?_⟩⟩
  · have hmoved : (t.ch c).own ≠ (s.ch c).own := by rwa [hfree, ne_comm]
    by_cases hhost : ∃ x, turn = .host x
    · obtain ⟨x, rfl⟩ := hhost
      obtain ⟨-, hrow⟩ | ⟨-, hrow⟩ | ⟨-, p, rest, i, -, -, hrow⟩ := hostMove_ownership hok hint (hostTurn_move ht) hmoved
      all_goals exact hrow.after_ne_free hfree
    · exact hmoved ((takeTurn_agent_kept hreset (fun x e => hhost ⟨x, e⟩) ht).handle c).own
  · exact ((takeTurn_agent_kept hreset hhost ht).handle c).own

/-- Settles O35: `takeTurn_persists` and `takeTurn_session`. -/
theorem onlyResetUndoesAnEnableOrReturnsToIdle : Obligations.OnlyResetUndoesAnEnableOrReturnsToIdle := by
  intro turn s t hreset ht
  obtain ⟨hdcm, hslave, henabled, hfatal, hstate, hvalid⟩ := takeTurn_persists hreset ht
  exact ⟨hdcm, hslave, henabled, hfatal, hstate, hvalid, takeTurn_session hreset ht⟩
end

section
/-! PROOFS. The four operations of the Master Engine, check by check (R191 to R194, R204, R205). -/

namespace Sys2Proof.Machine

/-! ### Describing a transaction -/

/-- A buffer no transaction can be described on: too long, wrapping the address space, or covering the data port (R191). -/
def BadBuffer (p : Params) (ptr len : Word) : Prop :=
  len.toNat > 1024 ∨ ptr.toNat + len.toNat > 2 ^ 32 ∨
  (ptr.toNat ≤ p.aMstdat.toNat ∧ p.aMstdat.toNat < ptr.toNat + len.toNat)

theorem badMasterBuffer_iff (p : Params) (ptr len : Word) : badMasterBuffer p ptr len = true ↔ BadBuffer p ptr len := by
  simp only [badMasterBuffer, Bool.or_eq_true, decide_eq_true_eq, spanContains_iff, or_assoc]
  rfl

/-- The state in which a transaction has been described on channel `c` (R191, R192). -/
def describedState (dir : Dir) (addr : Nat) (ptr len : Word) (c : ChIdx) (s : State) : State :=
  { s with
    me := describedMaster dir addr ptr len c s.me
    chans := s.chans.set c.toNat (describedChan dir ptr len (s.ch c))
    trace := s.trace ++ [opRec (describeOp dir addr ptr len c) s (reply c 0 0x00)] }

theorem describedState_nCh (dir : Dir) (addr : Nat) (ptr len : Word) (c : ChIdx) (s : State) :
    (describedState dir addr ptr len c s).nCh = s.nCh := by
  simp [State.nCh, describedState]

/-- What an operation that describes a transaction does: one clause per check, in their order, then the effect (R191, R192). -/
structure DescribeRule (i : Instr) (dir : Dir) (addr : Nat) (ptr len : Word) (c : ChIdx) (s : State) : Prop where
  badAddress : addr > 127 → AnswersOnly i s c 0x10
  empty : addr ≤ 127 → len = 0 → AnswersOnly i s c 0x00
  busy : addr ≤ 127 → len ≠ 0 → s.me.phase ≠ .idle → AnswersOnly i s c 0x50
  badChannel : addr ≤ 127 → len ≠ 0 → s.me.phase = .idle → s.nCh ≤ c.toNat → AnswersOnly i s c 0x13
  notHeld : addr ≤ 127 → len ≠ 0 → s.me.phase = .idle → c.toNat < s.nCh → (s.dcm.en = false ∨ (s.ch c).own ≠ .held) →
    AnswersOnly i s c 0x50
  badBuffer : addr ≤ 127 → len ≠ 0 → s.me.phase = .idle → c.toNat < s.nCh → s.dcm.en = true → (s.ch c).own = .held →
    BadBuffer s.par ptr len → AnswersOnly i s c 0x11
  described : addr ≤ 127 → len ≠ 0 → s.me.phase = .idle → c.toNat < s.nCh → s.dcm.en = true → (s.ch c).own = .held →
    ¬ BadBuffer s.par ptr len → exec i s = .next (describedState dir addr ptr len c s)

/-- With its inputs on, the operation goes through its checks. -/
theorem exec_describeOp {s : State} (hi2c : s.inp.clkI2c = true) (hdma : s.inp.clkDma = true)
    (dir : Dir) (addr : Nat) (ptr len : Word) (c : ChIdx) : DescribeRule (describeOp dir addr ptr len c) dir addr ptr len c s := by
  have hexec : exec (describeOp dir addr ptr len c) s = describe (describeOp dir addr ptr len c) dir addr ptr len c s := by
    cases dir <;> rfl
  have hneeds : needsMet s.inp (describeOp dir addr ptr len c) = true := by cases dir <;> simp [describeOp, needsMet, hi2c, hdma]
  have hex : s.chExists c = decide (c.toNat < s.nCh) := rfl
  have hanswer : ∀ {st : Status}, exec (describeOp dir addr ptr len c) s = finish (describeOp dir addr ptr len c) st s →
      AnswersOnly (describeOp dir addr ptr len c) s c st.code.toNat := fun h => by
    simpa using answersOnly_of_finish h
  rw [describe, withInputs_on _ s _ hneeds] at hexec
  refine ⟨fun haddr => ?_, fun haddr hlen => ?_, fun haddr (hlen : len ≠ 0#32) hbusy => ?_,
    fun haddr (hlen : len ≠ 0#32) hidle hc => ?_, fun haddr (hlen : len ≠ 0#32) hidle hc hno => ?_,
    fun haddr (hlen : len ≠ 0#32) hidle hc hen hheld hbad => ?_, fun haddr hlen hidle hc hen hheld hgood => ?_⟩
  · exact hanswer (st := .cfgInvalidAddress) (by simp [hexec, haddr])
  · exact hanswer (st := .ok) (hexec.trans (by rw [if_neg (Nat.not_lt.2 haddr), if_pos hlen]))
  · exact hanswer (st := .lifecycle) (by simp [hexec, Nat.not_lt.2 haddr, hlen, hbusy])
  · exact hanswer (st := .cfgBadChannel) (by simp [hexec, Nat.not_lt.2 haddr, hlen, hidle, hex, Nat.not_lt.2 hc])
  · refine hanswer (st := .lifecycle) ?_
    rcases hno with hoff | hown
    · simp [hexec, Nat.not_lt.2 haddr, hlen, hidle, hex, hc, hoff]
    · simp [hexec, Nat.not_lt.2 haddr, hlen, hidle, hex, hc, hown]
  · exact hanswer (st := .cfgDegenerateTransfer)
      (by simp [hexec, Nat.not_lt.2 haddr, hlen, hidle, hex, hc, hen, hheld, (badMasterBuffer_iff ..).2 hbad])
  · rw [hexec, if_neg (Nat.not_lt.2 haddr), if_neg hlen, if_neg (not_not.2 hidle), if_neg (by simp [hex, hc]),
      if_neg (by simp [hen]), if_neg (not_not.2 hheld), if_neg (mt (badMasterBuffer_iff ..).1 hgood), finish_ok,
      describeOp_chField]
    rfl

/-! ### M.START -/

/-- The state in which M.START has armed the master's channel (R194, R367). -/
def startedState (s : State) : State :=
  { s with
    mem := (s.writeRow (s.rowAddr s.me.ch) (rowOf (masterTransfer s.par s.me))).mem
    chans := s.chans.set s.me.ch.toNat (startedChan s.me.len (s.ch s.me.ch))
    haz := (noteArm s.me.ch ((s.writeRow (s.rowAddr s.me.ch) (rowOf (masterTransfer s.par s.me))).setCh s.me.ch
      (startedChan s.me.len (s.ch s.me.ch)))).haz
    me := { s.me with phase := .start }
    trace := s.trace ++ [opRec .mStart s (reply 0 0 0x00)] }

theorem startedState_nCh (s : State) : (startedState s).nCh = s.nCh := by
  simp [State.nCh, startedState]

theorem startedState_mem (s : State) :
    (startedState s).mem = (s.writeRow (s.rowAddr s.me.ch) (rowOf (masterTransfer s.par s.me))).mem := by
  rw [startedState]

/-- Outside the row every byte is as before (R144). -/
theorem byteAt_startedState (s : State) : BytesKeptOutside s (startedState s) (s.rowAddr s.me.ch) 16 := fun y hy => by
  rw [State.byteAt, startedState_mem]
  exact writeRow_keeps s _ _ y hy

/-- The words M.START puts in memory (R107 to R109, R144). -/
theorem memRead_startedState {s : State} (hm : Memory.sorted s.mem) :
    (startedState s).memRead (s.rowAddr s.me.ch) 4 = (rowOf (masterTransfer s.par s.me)).cfg ∧
    (startedState s).memRead (s.rowAddr s.me.ch + 4) 4 = (rowOf (masterTransfer s.par s.me)).srcEnd ∧
    (startedState s).memRead (s.rowAddr s.me.ch + 8) 4 = (rowOf (masterTransfer s.par s.me)).dstEnd ∧
    (startedState s).memRead (s.rowAddr s.me.ch + 12) 4 = 0 := by
  have hrow : (startedState s).readRow (s.rowAddr s.me.ch) = rowOf (masterTransfer s.par s.me) := by
    rw [readRow_congr (startedState_mem s), readRow_writeRow hm]
  rw [show (0 : Word) = (rowOf (masterTransfer s.par s.me)).next from rfl, ← hrow]
  exact ⟨rfl, rfl, rfl, rfl⟩

/-- An endpoint that does not increment ends where it starts (R109). -/
theorem endAddr_fixed (start count : Word) (w : Nat) : endAddr start count w false = start := by
  simp [endAddr, incWord]

/-- A buffer of bytes ends with its last byte (R109). -/
theorem endAddr_bytes (start count : Word) : endAddr start count 0 true = start + count - 1#32 := by
  simpa [endAddr, elemBytes, incWord] using (add_sub_assoc start count 1#32).symm

theorem execMStart_started {s : State} (hi2c : s.inp.clkI2c = true) (hdma : s.inp.clkDma = true)
    (hpins : s.inp.pinsOk = true) (hpend : s.me.phase = .pending) (hadm : rowAdmitted s.par (s.rowAddr s.me.ch) = true) :
    exec .mStart s = .next (startedState s) := by
  have hneeds : needsMet s.inp .mStart = true := by simp [needsMet, hi2c, hdma, hpins]
  have hm := writeRow_eq s (s.rowAddr s.me.ch) (rowOf (masterTransfer s.par s.me))
  rw [exec, execMStart, withInputs_on _ s _ hneeds, if_neg (not_not.2 hpend), buildDescriptor_of_admitted hadm]
  simp only [finish_ok, startedState]
  generalize (s.writeRow (s.rowAddr s.me.ch) (rowOf (masterTransfer s.par s.me))).mem = m at hm ⊢
  rw [hm]
  rfl

/-! ### M.WAIT -/

/-- M.WAIT past its check (R204). -/
theorem execMWait_eq {s : State} (hi2c : s.inp.clkI2c = true) (hdma : s.inp.clkDma = true)
    (hidle : s.me.phase ≠ .idle) (hpend : s.me.phase ≠ .pending) : exec .mWait s = holdOrFinish (.mWait s.me.ch) s := by
  simp [exec, execMWait, withInputs, needsMet, hi2c, hdma, hidle, hpend]


/-- The state in which M.WAIT has returned at once (R204). -/
def masterWaitedState (s : State) : State :=
  { s.setHold s.cur none with
    chans := s.chans.set s.me.ch.toNat (releasedChan (s.ch s.me.ch))
    me := { s.me with fault := .none, full := false, phase := .idle }
    trace := s.trace ++ [opRec .mWait s (reply s.me.ch 0 (mWaitStatus s.me.fault (s.ch s.me.ch).err).code.toNat)] }

theorem finishWait_masterWaited (s : State) :
    finishWait (.mWait s.me.ch) (s.setHold s.cur none) = .next (masterWaitedState s) := by
  have hch : (s.setHold s.cur none).ch s.me.ch = s.ch s.me.ch := ch_congr (by simp) s.me.ch
  rw [finishWait_mWait, hch, setHold_cur, setHold_me, masterWaitedState]
  nth_rw 1 [← setHold_chans s s.cur none, ← setHold_trace s s.cur none]
  rfl

end Sys2Proof.Machine

open Sys2Proof Sys2Proof.Machine

/-- Settles O16: the rule of a described transaction, in the write direction. -/
theorem mWriteAllDescribesAWrite : Obligations.MWriteAllDescribesAWrite := by
  intro addr ptr len c s hi2c hdma
  obtain ⟨haddress, hempty, hbusy, hchannel, howner, hbuffer, hdescribed⟩ := exec_describeOp hi2c hdma .w addr ptr len c
  refine ⟨haddress, hempty, hbusy, hchannel, howner, hbuffer, fun haddr hlen hidle hc hen hheld hgood => ?_⟩
  obtain ⟨hch, hothers⟩ := ch_of_chans_set (t := describedState .w addr ptr len c s) rfl hc
  exact ⟨_, hdescribed haddr hlen hidle hc hen hheld hgood, rfl, hch, hothers, describedState_nCh .., rfl⟩

/-- Settles O17: the rule of a described transaction, in the read direction. -/
theorem mReadAllDescribesARead : Obligations.MReadAllDescribesARead := by
  intro addr ptr len c s hi2c hdma
  obtain ⟨haddress, hempty, hbusy, hchannel, howner, hbuffer, hdescribed⟩ := exec_describeOp hi2c hdma .r addr ptr len c
  refine ⟨haddress, hempty, hbusy, hchannel, howner, hbuffer, fun haddr hlen hidle hc hen hheld hgood => ?_⟩
  obtain ⟨hch, hothers⟩ := ch_of_chans_set (t := describedState .r addr ptr len c s) rfl hc
  exact ⟨_, hdescribed haddr hlen hidle hc hen hheld hgood, rfl, hch, hothers, describedState_nCh .., rfl⟩

/-- Settles O18: the check, then the state M.START leaves and the words of the row it has built. -/
theorem mStartBuildsTheMasterRowAndArms : Obligations.MStartBuildsTheMasterRowAndArms := by
  intro s hi2c hdma hpins
  refine ⟨fun hno => ?_, fun hpend hen htable hc hmem => ?_⟩
  · exact answersOnly_of_finish (st := .lifecycle) (by simp [exec, execMStart, withInputs, needsMet, hi2c, hdma, hpins, hno])
  · intro c row len last
    obtain ⟨hch, hothers⟩ := ch_of_chans_set (t := startedState s) rfl hc
    obtain ⟨hcfg, hsrc, hdst, hnext⟩ := memRead_startedState hmem.1
    refine ⟨_, execMStart_started hi2c hdma hpins hpend (row_admitted htable hen c hc), hcfg.trans ?_, hsrc.trans ?_,
      hdst.trans ?_, hnext, byteAt_startedState s, hch, hothers, startedState_nCh s, rfl⟩
    · cases hd : s.me.dir <;> simp [masterTransfer, hd, rowOf, cfgWord, incWord, len]
    · cases hd : s.me.dir <;> simp [masterTransfer, hd, rowOf, endAddr_bytes, endAddr_fixed, last, len]
    · cases hd : s.me.dir <;> simp [masterTransfer, hd, rowOf, endAddr_bytes, endAddr_fixed, last, len]

/-- Settles O19: the check, then the hold of M.WAIT or its end. -/
theorem mWaitReleasesTheMasterOrBlocks : Obligations.MWaitReleasesTheMasterOrBlocks := by
  intro s hi2c hdma
  refine ⟨fun hno => ?_, fun hidle hpend hc => ?_⟩
  · refine answersOnly_of_finish (st := .lifecycle) ?_
    simp [exec, execMWait, withInputs, needsMet, hi2c, hdma, hno]
  · rw [execMWait_eq hi2c hdma hidle hpend]
    obtain ⟨hl, e⟩ | ⟨hl, e⟩ := holdOrFinish_cases (.mWait s.me.ch) s
    · refine ⟨fun hgo => absurd ((holdLifted_mWait_iff s _).1 hl) hgo, fun _ => ?_⟩
      obtain ⟨hch, hothers⟩ := ch_of_chans_set (t := masterWaitedState s) rfl hc
      exact ⟨_, e.trans (finishWait_masterWaited s), hch, hothers, by simp [State.nCh, masterWaitedState],
        by rw [masterWaitedState]; cases s.me.fault <;> cases (s.ch s.me.ch).err <;> rfl⟩
    · exact ⟨fun _ => e, fun hdone => absurd ((holdLifted_mWait_iff s _).2 hdone) (by simp [hl])⟩

end

section
/-! PROOFS. The master framing unit, step by step (R195 to R203, R207): the line that enables each step, that no two kinds of
step are enabled at once, and what each step leaves. -/

namespace Sys2Proof.Machine

/-! ### Enabled steps -/

/-- The line that enables a step, but for `clk_i2c` (R197 to R203). -/
def MfuStep.Line : MfuStep → State → Prop
  | .start _ _, s => s.me.phase = .start ∧ s.bus.phase = .idle
  | .wdrive _, s =>
    s.me.phase = .data ∧ s.me.dir = .w ∧ s.bus.init = .own ∧ s.bus.phase = .wIdle ∧ s.me.full = true
  | .wdone, s =>
    s.me.phase = .data ∧ s.me.dir = .w ∧ s.bus.init = .own ∧ s.bus.phase = .wIdle ∧ s.me.k = s.me.len ∧ s.me.full = false
  | .rrespond, s =>
    s.me.phase = .data ∧ s.me.dir = .r ∧ s.bus.init = .own ∧ s.bus.phase = .rAckwait ∧ s.me.full = false ∧
      (s.ch s.me.ch).err = .none
  | .nack, s => (s.me.phase = .addr ∨ s.me.phase = .data) ∧ s.bus.init = .own ∧ s.bus.phase = .ended
  | .dabort, s =>
    s.me.phase = .data ∧ s.bus.init = .own ∧ (s.ch s.me.ch).err = .dmaAbort ∧
      ((s.me.dir = .w ∧ s.bus.phase = .wIdle) ∨ (s.me.dir = .r ∧ s.bus.phase = .rAckwait))

/-- Every step of the MFU needs `clk_i2c` and its line (R195). -/
theorem mfuEnabled_iff (m : MfuStep) (s : State) : mfuEnabled m s = true ↔ s.inp.clkI2c = true ∧ m.Line s := by
  cases m <;> simp [mfuEnabled, MfuStep.Line, and_assoc]

/-- The state a step leaves when it is taken (R197 to R203). -/
def MfuStep.taken : MfuStep → State → State
  | .start arb present => mfuStart arb present
  | .wdrive arb => mfuWdrive arb
  | .wdone => mfuWdone
  | .rrespond => mfuRrespond
  | .nack => mfuNack
  | .dabort => mfuDabort

theorem takeTurn_mfu {m : MfuStep} {s : State} (hclk : s.inp.clkI2c = true) (hline : m.Line s) :
    takeTurn (.mfu m) s = .next (m.taken s) := by
  have he := (mfuEnabled_iff m s).2 ⟨hclk, hline⟩
  cases m <;> simp [takeTurn, mfuStep, he, MfuStep.taken]

/-! ### At most one kind of step -/

/-- The kind of a step: what the environment draws in it left out. -/
def MfuStep.kind : MfuStep → MfuStep
  | .start _ _ => .start .win false
  | .wdrive _ => .wdrive .win
  | .wdone => .wdone
  | .rrespond => .rrespond
  | .nack => .nack
  | .dabort => .dabort

theorem MfuStep.eq_of_kind_eq {m m' : MfuStep} (h : m.kind = m'.kind) :
    (∃ a p a' p', m = .start a p ∧ m' = .start a' p') ∨ (∃ a a', m = .wdrive a ∧ m' = .wdrive a') ∨ m = m' := by
  cases m <;> cases m' <;> simp_all [MfuStep.kind]

/-- The one kind of step that can be enabled: a refused byte ends the transaction before an abort does, and an abort before the
next byte is driven or asked for (R197 to R203). -/
def State.framingDue (s : State) : MfuStep :=
  if s.me.phase = .start then .start .win false
  else if s.bus.phase = .ended then .nack
  else if (s.ch s.me.ch).err = .dmaAbort then .dabort
  else if s.me.dir = .r then .rrespond
  else if s.me.full = true then .wdrive .win
  else .wdone

/-- An aborted write holds no byte to drive and has bytes left to move, so `dabort` excludes `wdrive` and `wdone` (R195, R203). -/
theorem kind_eq_framingDue {s : State} {m : MfuStep} (h : MasterOk s) (hd : s.haz.descWrite = false) (hline : m.Line s) :
    m.kind = s.framingDue := by
  cases m with
  | start =>
    obtain ⟨hme, -⟩ := hline
    simp [MfuStep.kind, State.framingDue, hme]
  | wdrive =>
    obtain ⟨hme, hdir, -, hbus, hfull⟩ := hline
    have hgo : (s.ch s.me.ch).err ≠ .dmaAbort := fun he => by
      simpa [hfull] using (h.aborted (by simp [hme]) (by simp [hme]) he).2 hdir
    simp [MfuStep.kind, State.framingDue, hme, hdir, hbus, hfull, hgo]
  | wdone =>
    obtain ⟨hme, hdir, -, hbus, hk, hfull⟩ := hline
    have hgo : (s.ch s.me.ch).err ≠ .dmaAbort := fun he => by
      have hleft := (h.aborted (by simp [hme]) (by simp [hme]) he).1
      have hcount := h.counted hd (by simp [hme]) (by simp [hme])
      rw [bytesSeen, hk] at hcount
      omega
    simp [MfuStep.kind, State.framingDue, hme, hdir, hbus, hfull, hgo]
  | rrespond =>
    obtain ⟨hme, hdir, -, hbus, -, herr⟩ := hline
    simp [MfuStep.kind, State.framingDue, hme, hdir, hbus, herr]
  | nack =>
    obtain ⟨hme, -, hbus⟩ := hline
    have hstart : s.me.phase ≠ .start := by rcases hme with e | e <;> simp [e]
    simp [MfuStep.kind, State.framingDue, hstart, hbus]
  | dabort =>
    obtain ⟨hme, -, herr, hbus⟩ := hline
    have hended : s.bus.phase ≠ .ended := by rcases hbus with ⟨-, e⟩ | ⟨-, e⟩ <;> simp [e]
    simp [MfuStep.kind, State.framingDue, hme, hended, herr]

/-! ### Arbitration -/

/-- A draw that R207 does not allow, or none, is won (log entry 12). -/
theorem arbitrate_win {p : Params} {b : Byte} {arb : Arb} (h : p.multiMaster = false ∨ arb = .win ∨ arb = .lose b) :
    arbitrate p b arb = .win := by
  cases arb with
  | win => rfl
  | lose b' =>
    rcases h with h | h | h
    · simp [arbitrate, h]
    · cases h
    · cases h
      simp [arbitrate]

theorem arbitrate_lose {p : Params} {b b' : Byte} (hm : p.multiMaster = true) (hb : b' ≠ b) :
    arbitrate p b (.lose b') = .lose b' := by
  simp [arbitrate, hm, hb]

/-- The address byte as a number (R110). -/
theorem addressByte_eq (a : BusAddr) (d : Dir) :
    addressByte a d = BitVec.ofNat 8 (2 * a.toNat + if d = .r then 1 else 0) := by
  apply BitVec.eq_of_toNat_eq
  have ha := a.isLt
  have hd : d.bit.toNat = if d = .r then 1 else 0 := by cases d <;> rfl
  rw [addressByte, BitVec.toNat_append, ← Nat.shiftLeft_add_eq_or_of_lt d.bit.isLt, hd, BitVec.toNat_ofNat, Nat.shiftLeft_eq]
  split_ifs <;> omega

theorem mfuStart_won {s : State} {arb : Arb} {ab : Byte} (hab : addressByte s.me.addr s.me.dir = ab)
    (hwin : s.par.multiMaster = false ∨ arb = .win ∨ arb = .lose ab) (present : Bool) :
    mfuStart arb present s = (driveAddress .own ab present s).setMe { s.me with phase := .addr } := by
  simp only [mfuStart, hab, arbitrate_win hwin, driveAddress_me]

theorem mfuStart_lost {s : State} {b : Byte} (hmulti : s.par.multiMaster = true) (hb : b ≠ addressByte s.me.addr s.me.dir)
    (present : Bool) : mfuStart (.lose b) present s = masterFault .arbLost (driveAddress .ext b present s) := by
  simp only [mfuStart, arbitrate_lose hmulti hb]

theorem mfuWdrive_won {s : State} {arb : Arb} (hwin : s.par.multiMaster = false ∨ arb = .win ∨ arb = .lose s.me.dat) :
    mfuWdrive arb s = driveData .own s.me.dat (s.setMe (byteTaken s.me)) := by
  simp only [mfuWdrive, arbitrate_win hwin, byteTaken]

theorem mfuWdrive_lost {s : State} {b : Byte} (hmulti : s.par.multiMaster = true) (hb : b ≠ s.me.dat) :
    mfuWdrive (.lose b) s = masterFault .arbLost (driveData .ext b (s.setMe (byteTaken s.me))) := by
  simp only [mfuWdrive, arbitrate_lose hmulti hb, byteTaken]

/-! ### The bus procedures as updates of the state -/

section
variable {s t u : State}

/-- The codes below 4 are the events of the hardware layer (R29). -/
theorem isFaultCode_eq_false_iff (e : EvCode) : isFaultCode e = false ↔ e.toNat < 4 := by
  simp [isFaultCode]

theorem slaveLatch_eq (ev : EvCode) (s : State) : slaveLatch ev s = { s with sl := (slaveLatch ev s).sl } := by
  unfold slaveLatch
  split_ifs <;> rfl

/-- `DriveData` writes the bus, the slave and the history (R286). -/
theorem driveData_eq (i : Initiator) (b : Byte) (s : State) :
    driveData i b s =
      { s with
        bus := { s.bus with phase := .wAckwait, init := i, byte := b }
        sl := (driveData i b s).sl
        trace := s.trace ++ [.sym (.data b) (drv i)] } := by
  unfold driveData
  split_ifs
  · rw [slaveLatch_eq]
    rfl
  · rfl

/-- `ReadAck` writes the bus, the slave and the history (R298). -/
theorem readAck_eq (d : Driver) (s : State) :
    readAck d s =
      { s with bus := { s.bus with phase := .rDatawait }, sl := (readAck d s).sl, trace := s.trace ++ [.sym .ack d] } := by
  unfold readAck
  split_ifs
  · rw [slaveLatch_eq]
    rfl
  · rfl

/-- A byte driven to the own slave raises its event unless a fault is pending or surfaced (R282, R286). -/
theorem driveData_sl_eq (i : Initiator) (b : Byte) (s : State) :
    (driveData i b s).sl =
      if s.bus.tgt = .ownSlv then
        { s.sl with rxdat := b, pend := if s.sl.fatal = false ∧ s.sl.pend.toNat < 4 then evRxReady else s.sl.pend }
      else s.sl := by
  rw [driveData_sl]
  simp only [isFaultCode_eq_false_iff]
  split_ifs <;> rfl

/-- What a channel write does, whether the channel exists or not. -/
theorem ch_of_chans_written {c : ChIdx} {x : Chan} (h : t.chans = s.chans.set c.toNat x) :
    (c.toNat < s.nCh → t.ch c = x) ∧ OtherChansKept s t c :=
  ⟨fun hc => (ch_of_chans_set h hc).1, fun d hd => (ch_congr (s := s.setCh c x) h d).trans (ch_setCh_other s c d x hd)⟩

/-- The own master that gives up stops its channel (R157, R197, R208). -/
theorem masterFault_ch (hch : u.chans = s.chans) (hme : u.me.ch = s.me.ch) (f : MFault) :
    (s.me.ch.toNat < s.nCh → (masterFault f u).ch s.me.ch = { s.ch s.me.ch with active := false }) ∧
    OtherChansKept s (masterFault f u) s.me.ch := by
  refine ch_of_chans_written ?_
  rw [masterFault_chans, stopChannel, setCh_chans, hch, hme, ch_congr hch]

end

/-! ### The end of a transaction -/

/-- The own master refused stops its channel with PERIPH_NACK (R157, R202). -/
theorem mfuNack_ch (s : State) :
    (s.me.ch.toNat < s.nCh →
      (mfuNack s).ch s.me.ch = { s.ch s.me.ch with err := .periphNack, active := false }) ∧
    OtherChansKept s (mfuNack s) s.me.ch := by
  have hch : ∀ d, (mfuNack s).ch d = (stopChannel s.me.ch (s.setCh s.me.ch { s.ch s.me.ch with err := .periphNack })).ch d :=
    ch_congr rfl
  refine ⟨fun hc => ?_, fun d hd => ?_⟩
  · rw [hch, stopChannel, ch_setCh_same _ _ _ (by rwa [nCh_setCh]), ch_setCh_same s _ _ hc]
  · rw [hch, stopChannel, ch_setCh_other _ _ _ _ hd, ch_setCh_other s _ _ _ hd]

end Sys2Proof.Machine

open Sys2Proof Sys2Proof.Machine

/-- Settles O44: the draw by the clauses of R207, then the two ends of the step. -/
theorem framingStartsWithTheAddressOrLosesTheBus : Obligations.FramingStartsWithTheAddressOrLosesTheBus := by
  intro arb present s hclk hme hbus ab
  have hab : addressByte s.me.addr s.me.dir = ab := addressByte_eq _ _
  have hturn := takeTurn_mfu (m := .start arb present) hclk ⟨hme, hbus⟩
  refine ⟨fun hwin => ?_, fun b hmulti harb hb => ?_⟩
  · rw [hturn, MfuStep.taken, mfuStart_won hab hwin]
  · subst harb
    rw [MfuStep.taken, mfuStart_lost hmulti (hab ▸ hb)] at hturn
    obtain ⟨hch, hothers⟩ := masterFault_ch (s := s) (driveAddress_chans s .ext b present)
      (congrArg Master.ch (driveAddress_me s .ext b present)) .arbLost
    exact ⟨_, hturn, by rw [masterFault_me, driveAddress_me], masterFault_bus .., masterFault_sl .., masterFault_trace ..,
      by rw [masterFault_mem, driveAddress_mem], hch, hothers⟩

/-- Settles O45: the draw by the clauses of R207, then the byte on the bus. -/
theorem framingDrivesTheDataByte : Obligations.FramingDrivesTheDataByte := by
  intro arb s hclk hme hdir hinit hbus hfull driven
  have hturn := takeTurn_mfu (m := .wdrive arb) hclk ⟨hme, hdir, hinit, hbus, hfull⟩
  refine ⟨fun hwin => ?_, fun b hmulti harb hb => ?_⟩
  · rw [MfuStep.taken, mfuWdrive_won hwin] at hturn
    exact ⟨_, hturn, ⟨driveData_bus .., driveData_trace .., driveData_sl_eq ..⟩, driveData_me .., by rw [driveData_eq]; rfl⟩
  · subst harb
    rw [MfuStep.taken, mfuWdrive_lost hmulti hb] at hturn
    obtain ⟨hch, hothers⟩ := masterFault_ch (s := s) (u := driveData .ext b (s.setMe (byteTaken s.me)))
      (driveData_chans ..) (by rw [driveData_me]; rfl) .arbLost
    refine ⟨_, hturn, ⟨?_, ?_, ?_⟩, ?_, hch, hothers, ?_⟩
    · rw [masterFault_bus, driveData_bus]; rfl
    · rw [masterFault_trace, driveData_trace]; rfl
    · rw [masterFault_sl, driveData_sl_eq]; rfl
    · rw [masterFault_me, driveData_me]; rfl
    · rw [driveData_eq]; rfl

/-- Settles O46: the four steps, each by what its procedures leave. -/
theorem framingEndsOrContinuesTheTransaction : Obligations.FramingEndsOrContinuesTheTransaction := by
  intro s hclk hinit stopped
  refine ⟨fun hme hdir hbus hk hfull => ?_, fun hme hdir hbus hfull herr => ⟨fun hmore => ?_, fun hlast => ?_⟩,
    fun hme hbus => ?_, fun hme herr hbus => ?_⟩
  · exact ⟨_, takeTurn_mfu (m := .wdone) hclk ⟨hme, hdir, hinit, hbus, hk, hfull⟩, ⟨rfl, rfl, by simp [MfuStep.taken, mfuWdone], rfl⟩, rfl, rfl⟩
  · refine ⟨_, takeTurn_mfu (m := .rrespond) hclk ⟨hme, hdir, hinit, hbus, hfull, herr⟩, ?_⟩
    rw [MfuStep.taken, mfuRrespond, if_pos hmore]
    exact ⟨readAck_bus .., readAck_sl .., by rw [readAck_eq]⟩
  · refine ⟨_, takeTurn_mfu (m := .rrespond) hclk ⟨hme, hdir, hinit, hbus, hfull, herr⟩, ?_⟩
    rw [MfuStep.taken, mfuRrespond, if_neg (Nat.not_lt.2 hlast)]
    exact ⟨⟨rfl, rfl, by simp, rfl⟩, rfl, rfl⟩
  · obtain ⟨hch, hothers⟩ := mfuNack_ch s
    exact ⟨_, takeTurn_mfu (m := .nack) hclk ⟨hme, hinit, hbus⟩, ⟨rfl, rfl, by simp [MfuStep.taken, mfuNack], rfl⟩, rfl, hch, hothers⟩
  · refine ⟨_, takeTurn_mfu (m := .dabort) hclk ⟨hme, hinit, herr, hbus⟩, ?_⟩
    rw [MfuStep.taken, mfuDabort]
    cases s.me.dir <;> exact ⟨⟨rfl, rfl, by simp, rfl⟩, rfl, rfl⟩

/-- Settles O47: an enabled step is of the kind that is due. -/
theorem atMostOneFramingStepIsEnabled : Obligations.AtMostOneFramingStepIsEnabled := by
  intro s m m' hok hd he he'
  obtain ⟨-, hline⟩ := (mfuEnabled_iff m s).1 he
  obtain ⟨-, hline'⟩ := (mfuEnabled_iff m' s).1 he'
  exact MfuStep.eq_of_kind_eq ((kind_eq_framingDue hok hd hline).trans (kind_eq_framingDue hok hd hline').symm)

end

section
/-! PROOFS. The phase of the master moves only forward (R190, R209), and the two fault reports of the hardware (R208, R256). -/

namespace Sys2Proof.Machine

/-! ### The phase of the master -/

/-- The phase stays or goes forward; a fault goes to M_DONE (R190). -/
def MPhase.Moves (p q : MPhase) : Prop :=
  q = p ∨ (p, q) ∈ [(MPhase.idle, MPhase.pending), (.pending, .start), (.start, .addr), (.addr, .data), (.data, .done),
    (.done, .idle), (.start, .done), (.addr, .done)]

section
variable {s t u : State}

/-- The address that is acknowledged is the own master's own one, if the transaction is its own (R42 item 8, R284). -/
theorem afterAddrAck_phase (h : LinkOk s.me s.bus) : s.me.phase.Moves (afterAddrAck s).me.phase := by
  rw [afterAddrAck_me]
  split_ifs with hown
  · obtain ⟨hbus, hinit⟩ := hown
    obtain ⟨hme, -⟩ | ⟨-, hno⟩ := h.ownBus hinit (by simp [hbus]) (by simp [hbus])
    · exact .inr (by simp [hme])
    · exact absurd hbus hno
  · exact .inl rfl

theorem supplyData_phase (d : Driver) (b : Byte) (s : State) : (supplyData d b s).me.phase = s.me.phase := by
  rw [supplyData_me]
  split_ifs <;> rfl

theorem serviceCase_phase (h : LinkOk s.me s.bus) (hc : ServiceCase s u) : s.me.phase.Moves u.me.phase := by
  cases hc with
  | addrMatch =>
    exact afterAddrAck_phase
      (s := (s.setSl { s.sl with state := .addressMatched, pend := evNone }).record (.sym .ack .ownSlave)) h
  | rxReady => exact .inl (by simp [serviceRxReady])
  | txReady => exact .inl (supplyData_phase ..)
  | underrun =>
    unfold serviceUnderrun
    split
    · exact .inl rfl
    · exact .inl (supplyData_phase ..)
  | fault => exact .inl rfl

/-- M.WRITE_ALL and M.READ_ALL take an idle master to M_PENDING, M.START a pending one to M_START, M.WAIT one that is done to
M_IDLE (R191 to R194, R204). -/
theorem opEffect_phase (h : LinkOk s.me s.bus) {i : Instr} {w : Word} (he : OpEffect s i w u) :
    s.me.phase.Moves u.me.phase := by
  cases he with
  | described _ _ _ _ _ _ _ hidle => exact .inr (by simp [hidle, describedMaster])
  | started hpend => exact .inr (by simp [hpend])
  | mWaited _ _ hl => exact .inr (by simp [((holdLifted_mWait_iff s _).1 hl).1])
  | serviced w u _ _ hc => exact serviceCase_phase h hc
  | unchanged | enabled | taken | armed | chWaited | slaveEnabled => exact .inl (by simp)

theorem exec_phase (h : LinkOk s.me s.bus) {i : Instr} (he : exec i s = .next t) : s.me.phase.Moves t.me.phase := by
  obtain ⟨w, u, hu, rfl⟩ | ⟨k, -, rfl⟩ := exec_outcome he
  · simpa using opEffect_phase h hu
  · exact .inl (by simp)

theorem hostMove_phase (h : LinkOk s.me s.bus) {x : Ctx} (hm : HostMove x s t) : s.me.phase.Moves t.me.phase := by
  cases hm with
  | passes | staysBlocked => exact .inl rfl
  | chWaitEnds => exact .inl rfl
  | mWaitEnds c _ hl => exact .inr (by simp [((holdLifted_mWait_iff s c).1 hl).1, State.waitReturned])
  | rejects => exact .inl (by simp)
  | executes p rest i t _ _ he => simpa using exec_phase (s := (s.setCtx x ⟨rest, none⟩).setCur x) (by simpa using h) he

theorem seqMove_phase {c : ChIdx} (hm : SeqMove c s t) : t.me.phase = s.me.phase := by
  cases hm with
  | waits | aborts => rfl
  | moves =>
    obtain ⟨b, e⟩ := (moveElement_moved c (s.readRow (s.rowAddr c)) s).me
    rw [e, moved_phase]

theorem mfuMove_phase {m : MfuStep} (hm : MfuMove s m t) : s.me.phase.Moves t.me.phase := by
  cases hm with
  | waits => exact .inl rfl
  | startWon _ _ hme => exact .inr (by simp [hme])
  | startLost _ _ _ hme => exact .inr (by simp [hme])
  | wdriveWon => exact .inl (by simp [byteTaken])
  | wdriveLost _ _ hme => exact .inr (by simp [hme])
  | wdone hme => exact .inr (by simp [hme])
  | rrespondAck => exact .inl (by simp)
  | rrespondLast hme => exact .inr (by simp [hme])
  | nack hme => exact .inr (by rcases hme with e | e <;> simp [e, mfuNack])
  | dabort _ hme => exact .inr (by simp [hme])

theorem envMove_phase (h : LinkOk s.me s.bus) {e : EnvStep} (hm : EnvMove s e t) : s.me.phase.Moves t.me.phase := by
  cases hm with
  | addrAck => exact afterAddrAck_phase (s := s.record (.sym .ack .extSlave)) h
  | timeout hme => exact .inr (by rcases hme with e | e | e <;> simp [e, envTimeout])
  | wdata ack => cases ack <;> exact .inl rfl
  | rdata => exact .inl (supplyData_phase ..)
  | waits | addrNack | masterNack | masterStop | slaveFault => exact .inl rfl
  | masterStart | masterData | masterAck => exact .inl (by simp)
  | masterRestart => exact .inl (by simp [envXmRestart])

theorem outsideMove_phase {o : OutsideStep} (hm : OutsideMove s o t) : t.me.phase = s.me.phase := by
  cases hm <;> simp

/-- Every turn but RESET (R190, R209). -/
theorem takeTurn_phase (h : LinkOk s.me s.bus) {turn : Turn} (hreset : turn ≠ .reset) (ht : takeTurn turn s = .next t) :
    s.me.phase.Moves t.me.phase := by
  cases turn with
  | host x => exact hostMove_phase h (hostTurn_move ht)
  | seq c => cases ht; exact .inl (seqMove_phase (seqStep_move c s))
  | mfu m => cases ht; exact mfuMove_phase (mfuStep_move m s)
  | bus =>
    cases ht
    have hm := busStep_move s
    generalize busStep s = t at hm
    cases hm <;> exact .inl rfl
  | env e => cases ht; exact envMove_phase h (envStep_move e s)
  | reset => exact absurd rfl hreset
  | outside o => exact .inl (outsideMove_phase (outsideStep_move ht))

end

/-! ### The two reports -/

/-- A step of the environment that is not enabled passes (R296). -/
theorem takeTurn_env_waits {e : EnvStep} {s : State} (h : ¬ envEnabled e s = true) : takeTurn (.env e) s = .next s := by
  simp [takeTurn, envStep, h]

/-- When the hardware may report a bus timeout (R208). -/
theorem timeout_enabled_iff (s : State) :
    envEnabled .timeout s = true ↔
      s.par.busTimeout = .may ∧ (s.me.phase = .start ∨ s.me.phase = .addr ∨ s.me.phase = .data) := by
  simp [envEnabled, or_assoc]

/-- When the hardware may report a fault code to the slave (R256). -/
theorem slvFault_enabled_iff (code : EvCode) (s : State) :
    envEnabled (.slvFault code) s = true ↔
      s.par.slvFaults.contains code = true ∧ 4 ≤ code.toNat ∧ s.sl.en = true ∧ s.sl.fatal = false ∧ s.sl.pend.toNat < 4 := by
  simp [envEnabled, isFaultCode, and_assoc]

/-- The bus after a timeout: hung in mid-transaction of the own master (R208, R300). -/
def timedOutBus (s : State) : Bus :=
  { s.bus with
    phase := if s.me.phase ≠ .start ∧ s.bus.init = .own ∧ s.bus.phase ≠ .idle then .hung else s.bus.phase }

theorem envTimeout_eq (s : State) :
    envTimeout s = masterFault .busTimeout ((s.record (.fault .busTimeout)).setBus (timedOutBus s)) := by
  simp only [envTimeout, timedOutBus, Bool.and_eq_true, decide_eq_true_eq, and_assoc]
  split_ifs <;> rfl

end Sys2Proof.Machine

open Sys2Proof Sys2Proof.Machine

/-- Settles O50: each report enabled, then each not enabled. -/
theorem timeoutsAndSlaveFaultsAreReported : Obligations.TimeoutsAndSlaveFaultsAreReported := by
  intro s
  refine ⟨fun hmay hme => ?_, fun hno => takeTurn_env_waits ?_, fun code hlisted hcode hen hfatal hpend => ?_,
    fun code hno => takeTurn_env_waits ?_⟩
  · have he := (timeout_enabled_iff s).2 ⟨hmay, hme⟩
    obtain ⟨hch, hothers⟩ := masterFault_ch (s := s) (u := (s.record (.fault .busTimeout)).setBus (timedOutBus s)) rfl rfl
      .busTimeout
    refine ⟨_, ?_, rfl, rfl, hch, hothers, rfl⟩
    simp [takeTurn, envStep, he, envTimeout_eq]
  · rw [timeout_enabled_iff]
    rintro ⟨hmay, hme⟩
    rcases hno with e | e | e | e <;> simp [e] at hmay hme
  · have he := (slvFault_enabled_iff code s).2 ⟨hlisted, hcode, hen, hfatal, hpend⟩
    rw [takeTurn, envStep, if_neg (by simp [he])]
    rfl
  · rw [slvFault_enabled_iff]
    rintro ⟨hlisted, hcode, hen, hfatal, hpend⟩
    rcases hno with e | e | e | e | e
    · exact absurd (e.symm.trans hlisted) nofun
    · omega
    · simp [e] at hen
    · simp [e] at hfatal
    · omega

/-- Settles O54: by the parties; an acknowledged address is one the master has driven (`afterAddrAck_phase`). -/
theorem theMasterPhaseOnlyMovesForward : Obligations.TheMasterPhaseOnlyMovesForward :=
  fun _ s _ hok _ hreset ht => takeTurn_phase ((masterOk_iff s).1 hok).link hreset ht

end

section
/-! PROOFS. The operations of the Slave Protocol State Machine (R241 to R252): what an invocation of S.SERVICE answers by the code it
reads, the state each case leaves, and the transition table. -/

namespace Sys2Proof.Machine

/-! ### The bus procedures of an acknowledged address and of a supplied byte as updates of the state -/

/-- `AfterAddrAck` writes the slave, the bus and the master (R284). -/
theorem afterAddrAck_eq (s : State) :
    afterAddrAck s = { s with sl := (afterAddrAck s).sl, bus := (afterAddrAck s).bus, me := (afterAddrAck s).me } := by
  by_cases hbus : s.bus.phase = .addr
  · cases hrw : s.bus.rw with
    | w => cases hinit : s.bus.init <;> simp [afterAddrAck, hbus, hrw, hinit] <;> rfl
    | r =>
      by_cases htgt : s.bus.tgt = .ownSlv
      · cases hinit : s.bus.init <;> simp only [afterAddrAck, hbus, hrw, hinit, htgt] <;> (rw [slaveLatch_eq]; rfl)
      · cases hinit : s.bus.init <;> simp [afterAddrAck, hbus, hrw, hinit, htgt] <;> rfl
  · simp [afterAddrAck, hbus]

/-- `SlaveAckData` writes the phase of the bus (R286). -/
theorem slaveAckData_eq (s : State) :
    slaveAckData s = { s with bus := { s.bus with phase := if s.bus.phase = .wAckwait then .wIdle else s.bus.phase } } := by
  unfold slaveAckData
  split_ifs <;> rfl

/-- `SupplyData` where the bus waits for a byte (R287). -/
theorem supplyData_waiting {s : State} (hbus : s.bus.phase = .rDatawait) (d : Driver) (b : Byte) :
    supplyData d b s =
      { s with
        bus := { s.bus with phase := .rAckwait, byte := b }
        me := if s.bus.init = .own then { s.me with dat := b, full := true } else s.me
        trace := s.trace ++ [.sym (.data b) d] } := by
  rw [supplyData, if_neg (not_not.2 hbus)]
  cases hinit : s.bus.init <;> rfl

/-- `SupplyData` elsewhere does nothing (R287). -/
theorem supplyData_elsewhere {s : State} (hbus : s.bus.phase ≠ .rDatawait) (d : Driver) (b : Byte) : supplyData d b s = s := by
  rw [supplyData, if_pos hbus]

/-! ### An invocation of S.SERVICE by the code it reads -/

/-- The answer of an invocation that leaves `u`: `INFO` is the code read, UNDERRUN and the session state, as a number (R104,
R242). -/
theorem serviced_eq {s u : State} {st : Status} {ev : EvCode} {underrun : Bool} {info : Nat} (hcur : u.cur = s.cur)
    (hinfo : ev.toNat + (if underrun = true then 16 else 0) + 32 * u.sl.state.code.toNat = info) :
    serviced st ev underrun u =
      .next { u with trace := u.trace ++ [opRec .sService s (reply 0 info st.code.toNat)] } := by
  rw [serviced, answer, responseWord_eq, serviceInfo_toNat, hinfo, opRec, ← hcur]
  rfl

section
variable {s t : State}

/-- In Fault an invocation answers with the surfaced code (R250). -/
theorem exec_sService_fatal (hclk : s.inp.clkI2c = true) (hfatal : s.sl.fatal = true) :
    exec .sService s =
      .next { s with trace := s.trace ++ [opRec .sService s (reply 0 (0xE0 + s.sl.faultCode.toNat) 0xF0)] } := by
  have hinfo : (serviceInfo s.sl.faultCode false SState.fault.code).toNat = 0xE0 + s.sl.faultCode.toNat := by
    rw [serviceInfo_toNat, Nat.add_comm]
    rfl
  rw [exec, execSService, withInputs_on .sService s _ hclk, if_pos hfatal, answer, responseWord_eq, hinfo]
  rfl

/-- A slave that is not enabled, or has no event pending, is only polled (R242, R243). -/
theorem exec_sService_idle (hclk : s.inp.clkI2c = true) (hfatal : s.sl.fatal = false)
    (hidle : s.sl.en = false ∨ s.sl.pend = evNone) : exec .sService s = serviced .wouldBlock evNone false s := by
  rw [exec, execSService, withInputs_on .sService s _ hclk, if_neg (by simp [hfatal])]
  obtain hoff | hnone := hidle
  · rw [if_pos (by simp [hoff])]
  · rw [if_pos hnone, ite_self]

section
variable (hclk : s.inp.clkI2c = true) (hfatal : s.sl.fatal = false) (hen : s.sl.en = true)
include hclk hfatal hen

/-- An enabled slave that has an event to serve takes the case of its code (R242). -/
theorem exec_sService_pending (hnone : s.sl.pend ≠ evNone) :
    exec .sService s =
      if s.sl.pend = evAddrMatch then serviced .ok evAddrMatch false (serviceAddrMatch s)
      else if s.sl.pend = evRxReady then serviced .ok evRxReady false (serviceRxReady s)
      else if s.sl.pend = evTxReady then
        if s.sl.lastValid = true then serviced .ok evTxReady false (serviceTxReady s)
        else serviced .ok evTxReady true (serviceUnderrun s)
      else serviced .fatal s.sl.pend false (serviceFault s) := by
  rw [exec, execSService, withInputs_on .sService s _ hclk, if_neg (by simp [hfatal]), if_neg (by simp [hen]), if_neg hnone]

/-- The case of R244. -/
theorem exec_sService_addrMatch (hp : s.sl.pend = evAddrMatch) :
    exec .sService s = serviced .ok evAddrMatch false (serviceAddrMatch s) := by
  rw [exec_sService_pending hclk hfatal hen (by rw [hp]; decide), if_pos hp]

/-- The case of R245. -/
theorem exec_sService_rxReady (hp : s.sl.pend = evRxReady) :
    exec .sService s = serviced .ok evRxReady false (serviceRxReady s) := by
  rw [exec_sService_pending hclk hfatal hen (by rw [hp]; decide), if_neg (by rw [hp]; decide), if_pos hp]

/-- The cases of R246 and R247. -/
theorem exec_sService_txReady (hp : s.sl.pend = evTxReady) :
    exec .sService s =
      if s.sl.lastValid = true then serviced .ok evTxReady false (serviceTxReady s)
      else serviced .ok evTxReady true (serviceUnderrun s) := by
  rw [exec_sService_pending hclk hfatal hen (by rw [hp]; decide), if_neg (by rw [hp]; decide), if_neg (by rw [hp]; decide),
    if_pos hp]

/-- The case of R249: a fault code is none of the events. -/
theorem exec_sService_fault (hp : isFaultCode s.sl.pend = true) :
    exec .sService s = serviced .fatal s.sl.pend false (serviceFault s) := by
  obtain ⟨hnone, haddr, hrx, htx⟩ := fault_code hp
  rw [exec_sService_pending hclk hfatal hen hnone, if_neg haddr, if_neg hrx, if_neg htx]

end

/-! ### What each case leaves -/

/-- The slave after an address match: the byte request is latched at once in a read that the bus makes of it (R244, R284). -/
theorem serviceAddrMatch_sl (hfatal : s.sl.fatal = false) :
    (serviceAddrMatch s).sl =
      { s.sl with
        state := .addressMatched
        pend := if s.bus.phase = .addr ∧ s.bus.rw = .r ∧ s.bus.tgt = .ownSlv then evTxReady else evNone } := by
  have hcode : isFaultCode evNone = false := rfl
  by_cases hlatch : s.bus.phase = .addr ∧ s.bus.rw = .r ∧ s.bus.tgt = .ownSlv <;>
    simp [serviceAddrMatch, afterAddrAck_sl, slaveLatch_sl, hfatal, hcode, hlatch]

/-- The bus after an address match moves on by the direction (R284). -/
theorem serviceAddrMatch_bus (s : State) :
    (serviceAddrMatch s).bus =
      { s.bus with
        phase := if s.bus.phase = .addr then (match s.bus.rw with | .w => .wIdle | .r => .rDatawait) else s.bus.phase } := by
  by_cases hbus : s.bus.phase = .addr
  · cases hrw : s.bus.rw <;> simp [serviceAddrMatch, afterAddrAck_bus, hbus, hrw]
  · simp [serviceAddrMatch, afterAddrAck_bus, hbus]

/-- The own master's address phase ends with the acknowledge (R244, R284). -/
theorem serviceAddrMatch_me (s : State) :
    (serviceAddrMatch s).me =
      { s.me with phase := if s.bus.phase = .addr ∧ s.bus.init = .own then .data else s.me.phase } := by
  by_cases hown : s.bus.phase = .addr ∧ s.bus.init = .own <;> simp [serviceAddrMatch, afterAddrAck_me, hown]

/-- An address match writes the slave, the bus and the master, and its acknowledge is on the bus (R244). -/
theorem serviceAddrMatch_eq (s : State) :
    serviceAddrMatch s =
      { s with
        sl := (serviceAddrMatch s).sl
        bus := (serviceAddrMatch s).bus
        me := (serviceAddrMatch s).me
        trace := s.trace ++ [.sym .ack .ownSlave] } :=
  afterAddrAck_eq _

/-- A received byte replaces the kept one and is acknowledged (R245). -/
theorem serviceRxReady_eq (s : State) :
    serviceRxReady s =
      { s with
        sl := { s.sl with last := s.sl.rxdat, lastValid := true, state := .receivingByte, pend := evNone }
        bus := { s.bus with phase := if s.bus.phase = .wAckwait then .wIdle else s.bus.phase }
        trace := s.trace ++ [.sym .ack .ownSlave] } :=
  slaveAckData_eq _

/-- `TXF` doubles modulo 256 (R248). -/
theorem txf_eq (v : Byte) : txf v = BitVec.ofNat 8 (2 * v.toNat) := by
  apply BitVec.eq_of_toNat_eq
  simp [txf, Nat.shiftLeft_eq, Nat.mul_comm]

/-- A requested byte is taken from the kept one, which stays (R246). -/
theorem serviceTxReady_sl (s : State) :
    (serviceTxReady s).sl = { s.sl with txdat := txf s.sl.last, state := .transmittingByte, pend := evNone } :=
  supplyData_sl ..

/-- The session moves on under both settings of the underrun (R247). -/
theorem serviceUnderrun_state (s : State) : (serviceUnderrun s).sl.state = .transmittingByte := by
  unfold serviceUnderrun
  split
  · rfl
  · rw [supplyData_sl]
    rfl

/-! ### The transition table -/

/-- The session state an invocation leaves, as the table of R252 gives it. -/
theorem exec_sService_state (h : exec .sService s = .next t) :
    t.sl.state =
      if s.sl.fatal = true then s.sl.state
      else if s.sl.en = false ∨ s.sl.pend = evNone then s.sl.state
      else if s.sl.pend = evAddrMatch then .addressMatched
      else if s.sl.pend = evRxReady then .receivingByte
      else if s.sl.pend = evTxReady then .transmittingByte
      else .fault := by
  obtain ⟨hclk, -⟩ := withInputs_next h
  cases hfatal : s.sl.fatal with
  | true =>
    rw [exec_sService_fatal hclk hfatal] at h
    cases h
    rfl
  | false =>
    rw [if_neg nofun]
    by_cases hidle : s.sl.en = false ∨ s.sl.pend = evNone
    · rw [exec_sService_idle hclk hfatal hidle] at h
      rw [if_pos hidle, serviced_sl h]
    · obtain ⟨hen, hnone⟩ := not_or.1 hidle
      rw [exec_sService_pending hclk hfatal (Bool.eq_true_of_not_eq_false hen) hnone] at h
      rw [if_neg hidle]
      split_ifs at h ⊢
      all_goals rw [serviced_sl h]
      · rw [serviceAddrMatch_sl hfatal]
      · rw [serviceRxReady_eq]
      · rw [serviceTxReady_sl]
      · exact serviceUnderrun_state s
      · rfl

end

end Sys2Proof.Machine

open Sys2Proof Sys2Proof.Machine

/-- Settles O20: the checks of S.ENABLE in their order. -/
theorem sEnableSetsTheOwnAddressOnce : Obligations.SEnableSetsTheOwnAddressOnce := by
  intro addr s hclk hpins
  have hon : needsMet s.inp (.sEnable addr) = true := by simp [needsMet, hclk, hpins]
  refine ⟨fun hbad => ?_, fun haddr hen => ?_, fun haddr hoff => ?_⟩
  · exact answersOnly_of_finish (st := .cfgInvalidAddress) (by rw [exec, execSEnable, withInputs_on _ s _ hon, if_pos hbad])
  · exact answersOnly_of_finish (st := .cfgAlreadyEnabled)
      (by rw [exec, execSEnable, withInputs_on _ s _ hon, if_neg (Nat.not_lt.2 haddr), if_pos hen])
  · rw [exec, execSEnable, withInputs_on _ s _ hon, if_neg (Nat.not_lt.2 haddr), if_neg (by simp [hoff]), finish_ok]
    rfl

/-- Settles O21: the invocation answers and does nothing. -/
theorem serviceWithoutAnEventChangesNothing : Obligations.ServiceWithoutAnEventChangesNothing := by
  intro s hclk hfatal hidle
  rw [exec_sService_idle hclk hfatal hidle, serviced_eq (info := 32 * s.sl.state.code.toNat) rfl (by simp [evNone])]
  rfl

/-- Settles O22: the slave, the bus and the master after an address match. -/
theorem serviceAcknowledgesAnAddressMatch : Obligations.ServiceAcknowledgesAnAddressMatch := by
  intro s hclk hfatal hen hp
  have hsl := serviceAddrMatch_sl hfatal
  have hcur : (serviceAddrMatch s).cur = s.cur := by rw [serviceAddrMatch_eq]
  rw [exec_sService_addrMatch hclk hfatal hen hp, serviced_eq (info := 0x21) hcur (by rw [hsl]; rfl)]
  refine ⟨_, rfl, hsl, serviceAddrMatch_bus s, serviceAddrMatch_me s, ?_⟩
  rw [serviceAddrMatch_eq, List.append_assoc]
  rfl

/-- Settles O23: the state `serviceRxReady_eq` says. -/
theorem serviceStoresAReceivedByte : Obligations.ServiceStoresAReceivedByte := by
  intro s hclk hfatal hen hp
  rw [exec_sService_rxReady hclk hfatal hen hp, serviceRxReady_eq, serviced_eq (s := s) (info := 0x42) (by rfl) (by rfl),
    List.append_assoc]
  rfl

/-- Settles O24: `SupplyData` where the bus waits for the byte, and elsewhere. -/
theorem serviceSuppliesTheDoubledByte : Obligations.ServiceSuppliesTheDoubledByte := by
  intro s hclk hfatal hen hp hvalid
  rw [exec_sService_txReady hclk hfatal hen hp, if_pos hvalid,
    serviced_eq (s := s) (info := 0x63) (by simp [serviceTxReady]) (by rw [serviceTxReady_sl]; rfl), serviceTxReady, txf_eq]
  by_cases hbus : s.bus.phase = .rDatawait
  · rw [supplyData_waiting (by exact hbus)]
    simp only [hbus, true_and, if_true]
    exact ⟨_, rfl, rfl, rfl, rfl, rfl⟩
  · rw [supplyData_elsewhere (by exact hbus)]
    simp only [hbus, false_and, if_false, List.append_nil]
    exact ⟨_, rfl, rfl, rfl, rfl, rfl⟩

/-- Settles O25: the two settings of the underrun; under DRAW the byte is the free one. -/
theorem serviceReportsAnUnderrun : Obligations.ServiceReportsAnUnderrun := by
  intro s hclk hfatal hen hp hvalid
  rw [exec_sService_txReady hclk hfatal hen hp, if_neg (by simp [hvalid]),
    serviced_eq (s := s) (info := 0x73) (serviceUnderrun_cur s) (by rw [serviceUnderrun_state]; rfl)]
  refine ⟨fun hstall => ?_, fun hdraw hbus => ⟨Config.freeByte s.draws, ?_⟩, fun hdraw hbus => ?_⟩
  · rw [serviceUnderrun, hstall]
    rfl
  · rw [serviceUnderrun, hdraw]
    dsimp only
    rw [supplyData_waiting (by exact hbus), List.append_assoc]
    exact ⟨_, rfl, rfl, rfl, rfl, rfl⟩
  · rw [serviceUnderrun, hdraw]
    dsimp only
    rw [supplyData_elsewhere (by exact hbus)]
    exact ⟨_, rfl, rfl⟩

/-- Settles O26: a fault code is none of the events. -/
theorem serviceTurnsAFaultCodeIntoFault : Obligations.ServiceTurnsAFaultCodeIntoFault := by
  intro s hclk hfatal hen hp
  rw [exec_sService_fault hclk hfatal hen (by simpa [isFaultCode] using hp),
    serviced_eq (s := s) (info := 0xE0 + s.sl.pend.toNat) (by rfl) (by simp [serviceFault, SState.code, Nat.add_comm])]
  rfl

/-- Settles O27: the table, and `exec_session` for the other operations. -/
theorem sessionStateFollowsTheTransitionTable : Obligations.SessionStateFollowsTheTransitionTable :=
  fun _ _ => ⟨exec_sService_state, fun _ hi h => exec_session h hi⟩

end

section
/-! PROOFS. Fault, which only RESET leaves (R250): the parties that owe the bus its next symbol (R299), the code that is surfaced, and
what the host's operations do in Fault. -/

namespace Sys2Proof.Machine

/-! ### Who moves the bus -/

section
variable {s t u : State}

/-- A framing step that moves the bus is one the stall table lists (R299). -/
theorem mfuMove_owes {m : MfuStep} (hm : MfuMove s m t) (hmoves : t.bus ≠ s.bus) : s.bus.owes (.mfu m) = true := by
  cases hm with
  | waits => exact absurd rfl hmoves
  | startWon _ _ _ hbus | startLost _ _ _ _ hbus => simp [Bus.owes, hbus]
  | wdriveWon _ _ _ hinit hbus | wdriveLost _ _ _ _ hinit hbus => simp [Bus.owes, hinit, hbus]
  | wdone _ _ hinit hbus | rrespondAck _ _ hinit hbus | rrespondLast _ _ hinit hbus => simp [Bus.owes, hinit, hbus]
  | nack _ hinit hbus => simp [Bus.owes, hinit, hbus]
  | dabort _ _ hinit _ hbus => rcases hbus with e | e <;> simp [Bus.owes, hinit, e]

/-- A step of the environment other than a reported timeout (R299). -/
theorem envMove_owes {e : EnvStep} (htimeout : e ≠ .timeout) (hm : EnvMove s e t) (hmoves : t.bus ≠ s.bus) :
    s.bus.owes (.env e) = true := by
  cases hm with
  | waits | slaveFault => exact absurd rfl hmoves
  | timeout => exact absurd rfl htimeout
  | addrAck hbus htgt | addrNack hbus htgt => simp [Bus.owes, hbus, htgt]
  | wdata _ hbus htgt | rdata _ hbus htgt => simp [Bus.owes, hbus, htgt]
  | masterStart _ _ _ hbus => simp [Bus.owes, hbus]
  | masterData _ hinit hbus | masterAck hinit hbus | masterNack hinit hbus => simp [Bus.owes, hinit, hbus]
  | masterStop hinit hbus => rcases hbus with e | e <;> simp [Bus.owes, hinit, e]
  | masterRestart _ _ _ hinit hbus => rcases hbus with e | e <;> simp [Bus.owes, hinit, e]

/-- The bus step is NACK by nobody (R288, R299). -/
theorem busMove_owes (hm : BusMove s t) (hmoves : t.bus ≠ s.bus) : s.bus.owes .bus = true := by
  cases hm with
  | waits => exact absurd rfl hmoves
  | nobody hbus htgt => simp [Bus.owes, hbus, htgt]

/-- Whoever of the agents and the outside parties moves the bus owes the next symbol (R299). -/
theorem takeTurn_agent_owes {turn : Turn} (hreset : turn ≠ .reset) (htimeout : turn ≠ .env .timeout)
    (hhost : ∀ x, turn ≠ .host x) (ht : takeTurn turn s = .next t) (hmoves : t.bus ≠ s.bus) : s.bus.owes turn = true := by
  cases turn with
  | host x => exact absurd rfl (hhost x)
  | seq c => cases ht; exact absurd (seqStep_sl_bus c s).2 hmoves
  | mfu m => cases ht; exact mfuMove_owes (mfuStep_move m s) hmoves
  | bus => cases ht; exact busMove_owes (busStep_move s) hmoves
  | env e => cases ht; exact envMove_owes (fun h => htimeout (h ▸ rfl)) (envStep_move e s) hmoves
  | reset => exact absurd rfl hreset
  | outside o =>
    have hm := outsideStep_move ht
    cases hm <;> exact absurd (by simp) hmoves

/-- Where the bus waits for the own slave only the host owes an answer (R255, R299). -/
theorem owes_host_of_awaitsSlave {b : Bus} {turn : Turn} (htgt : b.tgt = .ownSlv)
    (hphase : b.phase = .addr ∨ b.phase = .wAckwait ∨ b.phase = .rDatawait) (howes : b.owes turn = true) :
    ∃ x, turn = .host x := by
  cases turn with
  | host x => exact ⟨x, rfl⟩
  | mfu m => rcases hphase with e | e | e <;> cases m <;> simp [Bus.owes, e] at howes
  | env v => rcases hphase with e | e | e <;> cases v <;> simp [Bus.owes, e, htgt] at howes
  | bus => rcases hphase with e | e | e <;> simp [Bus.owes, e, htgt] at howes
  | seq | reset | outside => rcases hphase with e | e | e <;> simp [Bus.owes, e] at howes

/-! ### The surfaced code -/

@[simp] theorem slaveLatch_faultCode (ev : EvCode) (s : State) : (slaveLatch ev s).sl.faultCode = s.sl.faultCode := by
  rw [slaveLatch_sl]
  split_ifs <;> rfl

@[simp] theorem driveAddress_faultCode (s : State) (i : Initiator) (ab : Byte) (pr : Bool) :
    (driveAddress i ab pr s).sl.faultCode = s.sl.faultCode := by
  by_cases hown : ownAddressed s ab
  · rw [driveAddress_sl_own s i ab pr hown]
    split_ifs <;> rfl
  · rw [driveAddress_sl_ext s i ab pr hown]

@[simp] theorem driveData_faultCode (s : State) (i : Initiator) (b : Byte) :
    (driveData i b s).sl.faultCode = s.sl.faultCode := by
  rw [driveData_sl]
  split_ifs <;> rfl

@[simp] theorem afterAddrAck_faultCode (s : State) : (afterAddrAck s).sl.faultCode = s.sl.faultCode := by
  rw [afterAddrAck_sl]
  split_ifs <;> simp

@[simp] theorem readAck_faultCode (s : State) (d : Driver) : (readAck d s).sl.faultCode = s.sl.faultCode := by
  rw [readAck_sl]
  split_ifs <;> simp

theorem mfuMove_faultCode {m : MfuStep} (hm : MfuMove s m t) : t.sl.faultCode = s.sl.faultCode := by
  cases hm <;> simp [mfuNack]

theorem envMove_faultCode {e : EnvStep} (hm : EnvMove s e t) : t.sl.faultCode = s.sl.faultCode := by
  cases hm with
  | wdata ack => cases ack <;> rfl
  | masterRestart => simp [envXmRestart]
  | timeout => simp [envTimeout_eq]
  | slaveFault => rfl
  | _ => simp

/-- Only S.SERVICE surfaces a code (R249). -/
theorem takeTurn_agent_faultCode {turn : Turn} (hreset : turn ≠ .reset) (hhost : ∀ x, turn ≠ .host x)
    (ht : takeTurn turn s = .next t) : t.sl.faultCode = s.sl.faultCode := by
  cases turn with
  | host x => exact absurd rfl (hhost x)
  | seq c => cases ht; rw [(seqStep_sl_bus c s).1]
  | mfu m => cases ht; exact mfuMove_faultCode (mfuStep_move m s)
  | bus =>
    cases ht
    have hm := busStep_move s
    generalize busStep s = t at hm
    cases hm <;> rfl
  | env e => cases ht; exact envMove_faultCode (envStep_move e s)
  | reset => exact absurd rfl hreset
  | outside o =>
    have hm := outsideStep_move ht
    cases hm <;> simp

/-! ### Fault -/

/-- What a slave in Fault and the bus keep through a turn of the host (R250). -/
structure FaultKept (s t : State) : Prop where
  fatal : t.sl.fatal = s.sl.fatal
  state : t.sl.state = s.sl.state
  faultCode : t.sl.faultCode = s.sl.faultCode
  bus : t.bus = s.bus

theorem FaultKept.of_eq (hsl : t.sl = s.sl) (hbus : t.bus = s.bus) : FaultKept s t :=
  ⟨by rw [hsl], by rw [hsl], by rw [hsl], hbus⟩

/-- In Fault no operation touches the slave's state or the bus; S.ENABLE, which is no reset, may still set the address (R241,
R250). -/
theorem opEffect_of_fatal (hfatal : s.sl.fatal = true) {i : Instr} {w : Word} (he : OpEffect s i w u) : FaultKept s u := by
  cases he with
  | serviced _ _ hf => exact absurd (hf.symm.trans hfatal) nofun
  | slaveEnabled => exact ⟨rfl, rfl, rfl, rfl⟩
  | _ => exact .of_eq (by simp) (by simp)

theorem exec_of_fatal (hfatal : s.sl.fatal = true) {i : Instr} (h : exec i s = .next t) : FaultKept s t := by
  obtain ⟨w, u, hu, rfl⟩ | ⟨k, -, rfl⟩ := exec_outcome h
  · obtain ⟨hf, hstate, hcode, hbus⟩ := opEffect_of_fatal hfatal hu
    exact ⟨hf, hstate, hcode, hbus⟩
  · exact .of_eq (by simp) (by simp)

theorem hostMove_of_fatal (hfatal : s.sl.fatal = true) {x : Ctx} (hm : HostMove x s t) : FaultKept s t := by
  cases hm with
  | passes | staysBlocked => exact .of_eq rfl rfl
  | chWaitEnds | mWaitEnds => exact .of_eq (by simp [State.waitReturned]) (by simp [State.waitReturned])
  | rejects => exact .of_eq (by simp) (by simp)
  | executes p rest i t hp hd he =>
    obtain ⟨hf, hstate, hcode, hbus⟩ := exec_of_fatal (by simpa using hfatal) he
    exact ⟨by simpa using hf, by simpa using hstate, by simpa using hcode, by simpa using hbus⟩

/-- Every turn but RESET keeps Fault and its code (R250). -/
theorem takeTurn_of_fatal (hfatal : s.sl.fatal = true) {turn : Turn} (hreset : turn ≠ .reset) (ht : takeTurn turn s = .next t) :
    t.sl.fatal = true ∧ t.sl.state = s.sl.state ∧ t.sl.faultCode = s.sl.faultCode := by
  by_cases hhost : ∃ x, turn = .host x
  · obtain ⟨x, rfl⟩ := hhost
    obtain ⟨hf, hstate, hcode, -⟩ := hostMove_of_fatal hfatal (hostTurn_move ht)
    exact ⟨hf.trans hfatal, hstate, hcode⟩
  · have hagent : ∀ x, turn ≠ .host x := fun x e => hhost ⟨x, e⟩
    have hk := (takeTurn_agent_kept hreset hagent ht).session
    exact ⟨hk.fatal.trans hfatal, hk.state, takeTurn_agent_faultCode hreset hagent ht⟩

/-- A bus that waits for a slave in Fault stays: nobody else owes an answer, and the host's S.SERVICE gives none (R250, R255). -/
theorem takeTurn_bus_of_fatal (hfatal : s.sl.fatal = true) {turn : Turn} (hreset : turn ≠ .reset)
    (htimeout : turn ≠ .env .timeout) (htgt : s.bus.tgt = .ownSlv)
    (hphase : s.bus.phase = .addr ∨ s.bus.phase = .wAckwait ∨ s.bus.phase = .rDatawait) (ht : takeTurn turn s = .next t) :
    t.bus = s.bus := by
  by_cases hhost : ∃ x, turn = .host x
  · obtain ⟨x, rfl⟩ := hhost
    exact (hostMove_of_fatal hfatal (hostTurn_move ht)).bus
  · by_contra hmoves
    exact hhost (owes_host_of_awaitsSlave htgt hphase
      (takeTurn_agent_owes hreset htimeout (fun x e => hhost ⟨x, e⟩) ht hmoves))

end

end Sys2Proof.Machine

open Sys2Proof Sys2Proof.Machine

/-- Settles O28: `exec_sService_fatal` and `takeTurn_of_fatal`; a bus that waits for the slave is `takeTurn_bus_of_fatal`. -/
theorem slaveFaultIsAbsorbing : Obligations.SlaveFaultIsAbsorbing := by
  intro s hfatal
  refine ⟨fun hclk => exec_sService_fatal hclk hfatal, fun ev => by simp [slaveLatch, hfatal], by simp [State.sIrq, hfatal],
    fun turn t hreset ht => ?_⟩
  obtain ⟨hf, hstate, hcode⟩ := takeTurn_of_fatal hfatal hreset ht
  exact ⟨hf, hstate, hcode, fun htimeout htgt hphase => takeTurn_bus_of_fatal hfatal hreset htimeout htgt hphase ht⟩

end

section
/-! PROOFS. The grammar of the bus (R281, R111, R295): each bus procedure, run in the phase that calls for it, puts on the bus the
symbols that lead from the position of the old phase to that of the new one. -/

namespace Sys2Proof.Machine

/-! ### Runs of symbols -/

theorem symsOf_append (l l' : List Rec) : symsOf (l ++ l') = symsOf l ++ symsOf l' := by
  induction l with
  | nil => rfl
  | cons r l ih => cases r <;> simp [symsOf, ih]

theorem BusPos.readAll_append {p q : BusPos} {l : List (Sym × Driver)} (h : p.readAll l = some q) (l' : List (Sym × Driver)) :
    p.readAll (l ++ l') = q.readAll l' := by
  induction l generalizing p with
  | nil =>
    cases h
    rfl
  | cons x l ih =>
    rw [List.cons_append, BusPos.readAll]
    rw [BusPos.readAll] at h
    cases hx : p.read x with
    | none => simp [hx] at h
    | some p' => exact ih (by simpa [hx] using h)

/-- From `s` to `t` the records added continue the grammar of a transaction, from position to position (R281). -/
def ContinuesGrammar (s t : State) : Prop :=
  ∃ l, t.trace = s.trace ++ l ∧ s.bus.pos.readAll (symsOf l) = some t.bus.pos

section
variable {s t u : State}

theorem ContinuesGrammar.refl (s : State) : ContinuesGrammar s s := ⟨[], by simp, rfl⟩

theorem ContinuesGrammar.trans (h : ContinuesGrammar s u) (h' : ContinuesGrammar u t) : ContinuesGrammar s t := by
  obtain ⟨l, htrace, hread⟩ := h
  obtain ⟨l', htrace', hread'⟩ := h'
  exact ⟨l ++ l', by rw [htrace', htrace, List.append_assoc], by rw [symsOf_append, BusPos.readAll_append hread, hread']⟩

/-- A record that is no symbol (R36). -/
theorem ContinuesGrammar.record {r : Rec} (hr : symsOf [r] = []) : ContinuesGrammar s (s.record r) :=
  ⟨[r], rfl, by rw [hr]; rfl⟩

/-- Nothing is recorded and the bus stays. -/
theorem ContinuesGrammar.of_eq (htrace : t.trace = s.trace) (hbus : t.bus = s.bus) : ContinuesGrammar s t :=
  ⟨[], by rw [htrace, List.append_nil], by rw [hbus]; rfl⟩

/-- One symbol that the grammar reads (R281). -/
theorem ContinuesGrammar.of_symbol {x : Sym} {d : Driver} (htrace : t.trace = s.trace ++ [.sym x d])
    (hread : s.bus.pos.read (x, d) = some t.bus.pos) : ContinuesGrammar s t :=
  ⟨_, htrace, by simp [symsOf, BusPos.readAll, hread]⟩

/-! ### The bus procedures -/

/-- A START follows a STOP, or, from an external master, the body of its transaction (R283, R295). -/
theorem driveAddress_continues {i : Initiator}
    (h : s.bus.phase = .idle ∨ (i = .ext ∧ (s.bus.phase = .wIdle ∨ s.bus.phase = .ended))) (ab : Byte) (present : Bool) :
    ContinuesGrammar s (driveAddress i ab present s) := by
  have hstart : s.bus.pos.read (.start, drv i) = some .started := by
    obtain hbus | ⟨rfl, hbus | hbus⟩ := h <;> simp [Bus.pos, hbus, BusPos.read, drv]
  obtain ⟨tgt, hbus⟩ := driveAddress_bus s i ab present
  refine ⟨_, driveAddress_trace s i ab present, ?_⟩
  simp only [symsOf, BusPos.readAll, hstart, hbus]
  rfl

theorem afterAddrAck_bus_congr (h : u.bus = s.bus) : (afterAddrAck u).bus = (afterAddrAck s).bus := by
  rw [afterAddrAck_bus, afterAddrAck_bus, h]

/-- The ACK of an address leads into the body its direction calls for (R284). -/
theorem ack_continues {d : Driver} (hbus : s.bus.phase = .addr) (htrace : t.trace = s.trace ++ [.sym .ack d])
    (hmoved : t.bus = (afterAddrAck s).bus) : ContinuesGrammar s t := by
  refine .of_symbol htrace ?_
  cases hrw : s.bus.rw <;> simp [Bus.pos, hbus, hmoved, afterAddrAck_bus, hrw, BusPos.read]

/-- The NACK of an address, of a written byte or of a byte read ends the body (R285, R290, R294). -/
theorem nack_continues {d : Driver} (hbus : s.bus.phase = .addr ∨ s.bus.phase = .wAckwait ∨ s.bus.phase = .rAckwait)
    (htrace : t.trace = s.trace ++ [.sym .nack d]) (hphase : t.bus.phase = .ended) : ContinuesGrammar s t := by
  refine .of_symbol htrace ?_
  obtain e | e | e := hbus <;> simp [Bus.pos, e, hphase, BusPos.read]

/-- A STOP follows a byte that was acknowledged or a NACK (R297). -/
theorem busStop_continues (hbus : s.bus.phase = .wIdle ∨ s.bus.phase = .ended) (d : Driver) :
    ContinuesGrammar s (busStop d s) := by
  refine .of_symbol (busStop_trace s d) ?_
  obtain e | e := hbus <;> simp [Bus.pos, e, BusPos.read]

/-- The last byte read is answered with NACK, and STOP follows (R200, R203). -/
theorem nack_stop_continues (hbus : s.bus.phase = .rAckwait) (d : Driver) :
    ContinuesGrammar s (busStop d (s.record (.sym .nack d))) :=
  (nack_continues (t := (s.record (.sym .nack d)).setBus { s.bus with phase := .ended }) (.inr (.inr hbus)) rfl rfl).trans
    (busStop_continues (.inr rfl) d)

theorem driveData_continues (hbus : s.bus.phase = .wIdle) (i : Initiator) (b : Byte) :
    ContinuesGrammar s (driveData i b s) :=
  .of_symbol (driveData_trace s i b) (by simp [Bus.pos, hbus, BusPos.read])

theorem supplyData_continues (hbus : s.bus.phase = .rDatawait) (d : Driver) (b : Byte) :
    ContinuesGrammar s (supplyData d b s) := by
  rw [supplyData_waiting hbus]
  exact .of_symbol rfl (by simp [Bus.pos, hbus, BusPos.read])

theorem readAck_continues (hbus : s.bus.phase = .rAckwait) (d : Driver) : ContinuesGrammar s (readAck d s) :=
  .of_symbol (readAck_trace s d) (by simp [Bus.pos, hbus, BusPos.read])

/-! ### The host -/

/-- The own slave answers in the phase its event belongs to, unless the bus is hung (R244 to R247). -/
theorem serviceCase_continues (h : SlaveBusOk s) (hlive : s.bus.phase ≠ .hung) (hc : ServiceCase s u) :
    ContinuesGrammar s u := by
  cases hc with
  | addrMatch hp =>
    have hbus := (h.pendAddr hp).resolve_right hlive
    rw [serviceAddrMatch_eq]
    exact ack_continues hbus rfl (afterAddrAck_bus_congr rfl)
  | rxReady hp =>
    have hbus := (h.pendRx hp).resolve_right hlive
    rw [serviceRxReady_eq]
    exact .of_symbol rfl (by simp [Bus.pos, hbus, BusPos.read])
  | txReady hp =>
    exact supplyData_continues (s := s.setSl { s.sl with txdat := txf s.sl.last, state := .transmittingByte, pend := evNone })
      ((h.pendTx hp).resolve_right hlive) .ownSlave _
  | underrun hp =>
    unfold serviceUnderrun
    split
    · exact .of_eq rfl rfl
    · exact supplyData_continues (s := (s.setSl { s.sl with state := .transmittingByte, pend := evNone }).nextDraw)
        ((h.pendTx hp).resolve_right hlive) .ownSlave _
  | fault => exact .of_eq rfl rfl

theorem opEffect_continues (h : SlaveBusOk s) (hlive : s.bus.phase ≠ .hung) {i : Instr} {w : Word} (he : OpEffect s i w u) :
    ContinuesGrammar s u := by
  cases he with
  | serviced w u _ _ hc => exact serviceCase_continues h hlive hc
  | _ => exact .of_eq (by simp) (by simp)

theorem exec_continues (h : SlaveBusOk s) (hlive : s.bus.phase ≠ .hung) {i : Instr} (he : exec i s = .next t) :
    ContinuesGrammar s t := by
  obtain ⟨w, u, hu, rfl⟩ | ⟨k, -, rfl⟩ := exec_outcome he
  · exact (opEffect_continues h hlive hu).trans (.record rfl)
  · exact .of_eq (by simp) (by simp)

theorem hostMove_continues (h : SlaveBusOk s) (hlive : s.bus.phase ≠ .hung) {x : Ctx} (hm : HostMove x s t) :
    ContinuesGrammar s t := by
  cases hm with
  | passes | staysBlocked => exact .of_eq rfl rfl
  | chWaitEnds | mWaitEnds => exact .trans (.of_eq (by simp) (by simp)) (.record rfl)
  | rejects => exact .trans (.of_eq (by simp) (by simp)) (.record rfl)
  | executes p rest i t hp hd he =>
    exact .trans (u := (s.setCtx x ⟨rest, none⟩).setCur x) (.of_eq (by simp) (by simp))
      (exec_continues (h.of_eq (by simp) (by simp)) (by simpa using hlive) he)

/-! ### The agents -/

theorem seqStep_continues (c : ChIdx) (s : State) : ContinuesGrammar s (seqStep c s) := by
  have hm := seqStep_move c s
  generalize seqStep c s = t at hm
  cases hm with
  | waits | aborts => exact .of_eq rfl rfl
  | moves =>
    rw [moveElement_eq c _ s rfl rfl rfl rfl]
    exact ⟨[.dma ..], rfl, rfl⟩

/-- An aborted write ends with STOP, an aborted read with NACK and STOP (R203). -/
theorem mfuDabort_continues (hline : MfuStep.dabort.Line s) : ContinuesGrammar s (mfuDabort s) := by
  obtain ⟨-, -, -, ⟨hdir, hbus⟩ | ⟨hdir, hbus⟩⟩ := hline
  · simp only [mfuDabort, hdir]
    exact busStop_continues (.inl hbus) .ownMaster
  · simp only [mfuDabort, hdir]
    exact nack_stop_continues hbus .ownMaster

theorem mfuMove_continues {m : MfuStep} (hm : MfuMove s m t) (habort : m ≠ .dabort) : ContinuesGrammar s t := by
  cases hm with
  | waits => exact .refl s
  | startWon _ present _ hbus =>
    exact (driveAddress_continues (.inl hbus) _ present).trans (.of_eq rfl rfl)
  | startLost _ present b _ hbus =>
    exact (driveAddress_continues (.inl hbus) b present).trans (.of_eq (masterFault_trace ..) (masterFault_bus ..))
  | wdriveWon _ _ _ _ hbus => exact driveData_continues (s := s.setMe (byteTaken s.me)) hbus .own _
  | wdriveLost _ b _ _ _ hbus =>
    exact (driveData_continues (s := s.setMe (byteTaken s.me)) hbus .ext b).trans
      (.of_eq (masterFault_trace ..) (masterFault_bus ..))
  | wdone _ _ _ hbus => exact busStop_continues (.inl hbus) .ownMaster
  | rrespondAck _ _ _ hbus => exact readAck_continues hbus .ownMaster
  | rrespondLast _ _ _ hbus => exact nack_stop_continues hbus .ownMaster
  | nack _ _ hbus => exact busStop_continues (.inr hbus) .ownMaster
  | dabort => exact absurd rfl habort

theorem mfuStep_continues (m : MfuStep) (s : State) : ContinuesGrammar s (mfuStep m s) := by
  by_cases habort : m = .dabort
  · subst habort
    unfold mfuStep
    split_ifs with he
    · exact .refl s
    · exact mfuDabort_continues ((mfuEnabled_iff _ s).1 (by simpa using he)).2
  · exact mfuMove_continues (mfuStep_move m s) habort

theorem busMove_continues (hm : BusMove s t) : ContinuesGrammar s t := by
  cases hm with
  | waits => exact .refl s
  | nobody hbus => exact nack_continues (.inl hbus) rfl rfl

theorem timedOutBus_of_live (h : (timedOutBus s).phase ≠ .hung) : timedOutBus s = s.bus := by
  unfold timedOutBus at h ⊢
  split_ifs at h ⊢
  · exact absurd rfl h
  · rfl

/-- A timeout that hangs the bus is excepted: B_HUNG has no position (R208). -/
theorem envMove_continues {e : EnvStep} (hm : EnvMove s e t) (hlive : t.bus.phase ≠ .hung) : ContinuesGrammar s t := by
  cases hm with
  | waits => exact .refl s
  | addrAck hbus => exact ack_continues hbus (afterAddrAck_trace _) (afterAddrAck_bus_congr rfl)
  | addrNack hbus => exact nack_continues (.inl hbus) rfl rfl
  | wdata ack hbus =>
    cases ack with
    | true => exact .of_symbol rfl (by simp [envXsWdata, Bus.pos, hbus, BusPos.read])
    | false => exact nack_continues (.inr (.inl hbus)) rfl rfl
  | rdata b hbus => exact supplyData_continues hbus .extSlave b
  | masterStart a7 rw present hbus => exact driveAddress_continues (.inl hbus) _ present
  | masterData b _ hbus => exact driveData_continues hbus .ext b
  | masterAck _ hbus => exact readAck_continues hbus .extMaster
  | masterNack _ hbus => exact nack_continues (.inr (.inr hbus)) rfl rfl
  | masterStop _ hbus => exact busStop_continues hbus .extMaster
  | masterRestart a7 rw present _ hbus =>
    exact driveAddress_continues (s := (s.setBus { s.bus with tgt := .none }).setSl { s.sl with sel := .nsel })
      (.inr ⟨rfl, hbus⟩) (addressByte a7 rw) present
  | timeout =>
    refine .trans (.record (r := .fault .busTimeout) rfl) (.of_eq ?_ ?_)
    · simp [envTimeout_eq]
    · rw [envTimeout_eq, masterFault_bus, setBus_bus] at hlive ⊢
      rw [record_bus, timedOutBus_of_live hlive]
  | slaveFault code => exact .trans (.record (r := .fault (.slave code)) rfl) (.of_eq rfl rfl)

theorem outsideMove_continues {o : OutsideStep} (hm : OutsideMove s o t) : ContinuesGrammar s t := by
  cases hm <;> exact .of_eq (by simp) (by simp)

theorem takeTurn_continues (h : SlaveBusOk s) {turn : Turn} (hreset : turn ≠ .reset) (hlive : s.bus.phase ≠ .hung)
    (ht : takeTurn turn s = .next t) (hlive' : t.bus.phase ≠ .hung) : ContinuesGrammar s t := by
  cases turn with
  | host x => exact hostMove_continues h hlive (hostTurn_move ht)
  | seq c => cases ht; exact seqStep_continues c s
  | mfu m => cases ht; exact mfuStep_continues m s
  | bus => cases ht; exact busMove_continues (busStep_move s)
  | env e => cases ht; exact envMove_continues (envStep_move e s) hlive'
  | reset => exact absurd rfl hreset
  | outside o => exact outsideMove_continues (outsideStep_move ht)

end

end Sys2Proof.Machine

open Sys2Proof Sys2Proof.Machine

/-- Settles O53: by the party whose turn it is, each procedure of the bus in the phase that calls for it. -/
theorem busSymbolsFollowTheGrammar : Obligations.BusSymbolsFollowTheGrammar :=
  fun _ _ _ h hreset hlive ht hlive' => takeTurn_continues h hreset hlive ht hlive'

end

section
/-! PROOFS. Who moves the bus (R255, R299), and the hung bus, which nobody but RESET moves (R300). -/

namespace Sys2Proof.Machine

/-- The own slave owes an answer: its pending event is the one of the phase the bus is in (R299). -/
def AnswerOwed (s : State) : Prop :=
  (s.sl.pend = evAddrMatch ∧ s.bus.phase = .addr) ∨ (s.sl.pend = evRxReady ∧ s.bus.phase = .wAckwait) ∨
    (s.sl.pend = evTxReady ∧ s.bus.phase = .rDatawait)

section
variable {s t u : State}

/-! ### The host -/

/-- A byte is supplied where the bus waits for it, or nothing happens (R287). -/
theorem supplyData_bus_moves (hu : u.bus = s.bus) {d : Driver} {b : Byte} (hmoves : (supplyData d b u).bus ≠ s.bus) :
    s.bus.phase = .rDatawait := by
  by_contra hbus
  exact hmoves (by rw [supplyData_elsewhere (by rwa [hu]), hu])

/-- S.SERVICE moves the bus only to answer what is owed (R255). -/
theorem serviceCase_bus_moves (hc : ServiceCase s u) (hmoves : u.bus ≠ s.bus) : AnswerOwed s := by
  cases hc with
  | addrMatch hp =>
    refine .inl ⟨hp, by_contra fun hbus => hmoves ?_⟩
    simp [serviceAddrMatch, afterAddrAck_bus, hbus]
  | rxReady hp =>
    refine .inr (.inl ⟨hp, by_contra fun hbus => hmoves ?_⟩)
    simp [serviceRxReady, slaveAckData_bus, hbus]
  | txReady hp => exact .inr (.inr ⟨hp, supplyData_bus_moves (by rfl) hmoves⟩)
  | underrun hp =>
    refine .inr (.inr ⟨hp, ?_⟩)
    unfold serviceUnderrun at hmoves
    split at hmoves
    · exact absurd rfl hmoves
    · exact supplyData_bus_moves (by rfl) hmoves
  | fault => exact absurd rfl hmoves

theorem exec_bus_moves {i : Instr} (he : exec i s = .next t) (hmoves : t.bus ≠ s.bus) : i = .sService ∧ AnswerOwed s := by
  obtain ⟨w, u, hu, rfl⟩ | ⟨k, -, rfl⟩ := exec_outcome he
  · rw [record_bus] at hmoves
    cases hu with
    | serviced w u _ _ hc => exact ⟨rfl, serviceCase_bus_moves hc hmoves⟩
    | _ => exact absurd (by simp) hmoves
  · exact absurd (by simp) hmoves

theorem hostMove_bus_moves {x : Ctx} (hm : HostMove x s t) (hmoves : t.bus ≠ s.bus) : AnswerOwed s := by
  cases hm with
  | passes | staysBlocked => exact absurd rfl hmoves
  | chWaitEnds | mWaitEnds => exact absurd (by simp [State.waitReturned]) hmoves
  | rejects => exact absurd (by simp) hmoves
  | executes p rest i t hp hd he =>
    simpa [AnswerOwed] using (exec_bus_moves he (by simpa using hmoves)).2

/-- An event is pending only for a slave that is the target (R42 item 4). -/
theorem AnswerOwed.target (h : SlaveBusOk s) (ho : AnswerOwed s) : s.bus.tgt = .ownSlv :=
  (h.pendTarget (ho.imp And.left (Or.imp And.left And.left))).2

/-- The stall table lists the host where the own slave owes an answer (R299). -/
theorem AnswerOwed.owes_host (h : SlaveBusOk s) (ho : AnswerOwed s) (x : Ctx) : s.bus.owes (.host x) = true := by
  have htgt := ho.target h
  obtain ⟨-, hbus⟩ | ⟨-, hbus⟩ | ⟨-, hbus⟩ := ho <;> simp [Bus.owes, hbus, htgt]

theorem takeTurn_owes (h : SlaveBusOk s) {turn : Turn} (hreset : turn ≠ .reset) (htimeout : turn ≠ .env .timeout)
    (ht : takeTurn turn s = .next t) (hmoves : t.bus ≠ s.bus) : s.bus.owes turn = true := by
  by_cases hhost : ∃ x, turn = .host x
  · obtain ⟨x, rfl⟩ := hhost
    exact (hostMove_bus_moves (hostTurn_move ht) hmoves).owes_host h x
  · exact takeTurn_agent_owes hreset htimeout (fun x e => hhost ⟨x, e⟩) ht hmoves

/-! ### The hung bus -/

/-- No operation selects or deselects the slave (R31). -/
theorem exec_sel {i : Instr} (he : exec i s = .next t) : t.sl.sel = s.sl.sel := by
  obtain ⟨w, u, hu, rfl⟩ | ⟨k, -, rfl⟩ := exec_outcome he
  · rw [record_sl]
    cases hu with
    | serviced w u _ _ hc => exact (serviceCase_regs hc).sl.2.2.2
    | _ => simp
  · simp

theorem hostMove_sel {x : Ctx} (hm : HostMove x s t) : t.sl.sel = s.sl.sel := by
  cases hm with
  | passes | staysBlocked => rfl
  | chWaitEnds | mWaitEnds => simp [State.waitReturned]
  | rejects => simp
  | executes p rest i t hp hd he => simpa using exec_sel he

section
variable (hhung : s.bus.phase = .hung)
include hhung

/-- In B_HUNG the own slave owes no answer that S.SERVICE could give (R300). -/
theorem not_answerOwed_of_hung : ¬ AnswerOwed s := by
  simp [AnswerOwed, hhung]

theorem hostMove_of_hung {x : Ctx} (hm : HostMove x s t) : t.bus = s.bus ∧ t.sl.sel = s.sl.sel :=
  ⟨by_contra fun hmoves => not_answerOwed_of_hung hhung (hostMove_bus_moves hm hmoves), hostMove_sel hm⟩

/-- No framing step is enabled in B_HUNG (R197 to R203). -/
theorem mfuMove_of_hung {m : MfuStep} (hm : MfuMove s m t) : t = s := by
  cases hm with
  | waits => rfl
  | startWon _ _ _ hbus | startLost _ _ _ _ hbus => simp [hhung] at hbus
  | wdriveWon _ _ _ _ hbus | wdriveLost _ _ _ _ _ hbus => simp [hhung] at hbus
  | wdone _ _ _ hbus | rrespondAck _ _ _ hbus | rrespondLast _ _ _ hbus => simp [hhung] at hbus
  | nack _ _ hbus => simp [hhung] at hbus
  | dabort _ _ _ _ hbus => simp [hhung] at hbus

theorem busMove_of_hung (hm : BusMove s t) : t = s := by
  cases hm with
  | waits => rfl
  | nobody hbus => simp [hhung] at hbus

/-- The environment may still report a timeout or a slave fault, which leave the bus (R208, R256, R300). -/
theorem envMove_of_hung {e : EnvStep} (hm : EnvMove s e t) : t.bus = s.bus ∧ t.sl.sel = s.sl.sel := by
  cases hm with
  | waits | slaveFault => exact ⟨rfl, rfl⟩
  | timeout => simp [envTimeout_eq, timedOutBus, ← hhung]
  | addrAck hbus | addrNack hbus | wdata _ hbus | rdata _ hbus => simp [hhung] at hbus
  | masterStart _ _ _ hbus | masterData _ _ hbus | masterAck _ hbus | masterNack _ hbus => simp [hhung] at hbus
  | masterStop _ hbus | masterRestart _ _ _ _ hbus => simp [hhung] at hbus

theorem takeTurn_of_hung {turn : Turn} (hreset : turn ≠ .reset) (ht : takeTurn turn s = .next t) :
    t.bus = s.bus ∧ t.sl.sel = s.sl.sel := by
  cases turn with
  | host x => exact hostMove_of_hung hhung (hostTurn_move ht)
  | seq c =>
    cases ht
    obtain ⟨hsl, hbus⟩ := seqStep_sl_bus c s
    exact ⟨hbus, by rw [hsl]⟩
  | mfu m =>
    cases ht
    rw [mfuMove_of_hung hhung (mfuStep_move m s)]
    exact ⟨rfl, rfl⟩
  | bus =>
    cases ht
    rw [busMove_of_hung hhung (busStep_move s)]
    exact ⟨rfl, rfl⟩
  | env e => cases ht; exact envMove_of_hung hhung (envStep_move e s)
  | reset => exact absurd rfl hreset
  | outside o =>
    have hm := outsideStep_move ht
    cases hm <;> simp

end

end

end Sys2Proof.Machine

open Sys2Proof Sys2Proof.Machine

/-- Settles O51: the agents by the lines that enable their steps, the host by the answer its S.SERVICE gives. -/
theorem onlyTheOwingPartyMovesTheBus : Obligations.OnlyTheOwingPartyMovesTheBus := by
  refine ⟨fun turn s t h hreset htimeout ht hmoves => takeTurn_owes h hreset htimeout ht hmoves, fun i s t h he hmoves => ?_⟩
  obtain ⟨hi, howed⟩ := exec_bus_moves he hmoves
  exact ⟨hi, howed.target h, howed⟩

/-- Settles O52: no step that moves the bus is enabled in B_HUNG. -/
theorem aHungBusIsLeftOnlyByReset : Obligations.AHungBusIsLeftOnlyByReset :=
  fun _ _ _ hhung hreset ht => takeTurn_of_hung hhung hreset ht

end

section
/-! PROOFS. The address byte (R110, R283), and what other devices and external masters put on the bus (R288 to R295). -/

namespace Sys2Proof.Machine

/-! ### The address byte -/

/-- The upper seven bits of an address byte (R110). -/
theorem addressOf_eq (ab : Byte) : addressOf ab = BitVec.ofNat 7 (ab.toNat / 2) := by
  apply BitVec.eq_of_toNat_eq
  simp [addressOf, Nat.shiftRight_eq_div_pow]

/-- The lowest bit of an address byte (R110). -/
theorem directionOf_eq (ab : Byte) : directionOf ab = if ab.toNat % 2 = 1 then .r else .w := by
  simp [directionOf, dirOfBit, BitVec.getLsbD, Nat.testBit_zero]

theorem selOf_eq (d : Dir) : selOf d = if d = .w then .selW else .selR := by
  cases d <;> rfl

/-- `SlaveLatch` as an update of the state (R282). -/
theorem slaveLatch_update (ev : EvCode) (s : State) :
    slaveLatch ev s =
      if s.sl.fatal = false ∧ s.sl.pend.toNat < 4 then { s with sl := { s.sl with pend := ev } } else s := by
  rw [slaveLatch_eq, slaveLatch_sl]
  simp only [isFaultCode_eq_false_iff]
  split_ifs <;> rfl

/-- `DriveAddress` writes the bus, the slave and the history (R283). -/
theorem driveAddress_eq (i : Initiator) (ab : Byte) (pr : Bool) (s : State) :
    driveAddress i ab pr s =
      { s with
        bus := (driveAddress i ab pr s).bus
        sl := (driveAddress i ab pr s).sl
        trace := s.trace ++ [.sym .start (drv i), .sym (.addr (addressOf ab) (directionOf ab)) (drv i)] } := by
  rw [← driveAddress_trace s i ab pr]
  by_cases hown : (s.sl.en && decide (addressOf ab = s.sl.addr)) = true
  · simp only [driveAddress, hown, if_true]
    rw [slaveLatch_eq]
    rfl
  · simp only [driveAddress, hown]
    rfl

/-! ### The steps of the environment -/

/-- The state a step leaves when it is taken (R208, R256, R289 to R295). -/
def EnvStep.taken : EnvStep → State → State
  | .xsAddr ack => envXsAddr ack
  | .xsWdata ack => envXsWdata ack
  | .xsRdata b => supplyData .extSlave b
  | .xmStart a7 rw present => driveAddress .ext (addressByte a7 rw) present
  | .xmWdata b => driveData .ext b
  | .xmRresp ack => envXmRresp ack
  | .xmStop => busStop .extMaster
  | .xmRestart a7 rw present => envXmRestart a7 rw present
  | .timeout => envTimeout
  | .slvFault code => envSlvFault code

theorem takeTurn_env {e : EnvStep} {s : State} (he : envEnabled e s = true) : takeTurn (.env e) s = .next (e.taken s) := by
  cases e <;> simp [takeTurn, envStep, he, EnvStep.taken]

/-- The ACK of an external slave to its address (R284, R289). -/
theorem envXsAddr_ack {s : State} (hbus : s.bus.phase = .addr) (htgt : s.bus.tgt = .extSlv) :
    envXsAddr true s =
      { s with
        bus := { s.bus with phase := (match s.bus.rw with | .w => .wIdle | .r => .rDatawait) }
        me := { s.me with phase := if s.bus.init = .own then .data else s.me.phase }
        trace := s.trace ++ [.sym .ack .extSlave] } := by
  cases hrw : s.bus.rw <;> cases hinit : s.bus.init <;> simp [envXsAddr, afterAddrAck, hbus, htgt, hrw, hinit] <;> rfl

end Sys2Proof.Machine

open Sys2Proof Sys2Proof.Machine

/-- Settles O43: by whether the byte addresses the own slave. -/
theorem addressBytesSelectTheTarget : Obligations.AddressBytesSelectTheTarget := by
  refine ⟨slaveLatch_update, fun i ab present s => ?_⟩
  simp only [← addressOf_eq, ← directionOf_eq, ← selOf_eq, ← isFaultCode_eq_false_iff]
  rw [driveAddress_eq]
  by_cases hown : ownAddressed s ab
  · rw [driveAddress_bus_own s i ab present hown, driveAddress_sl_own s i ab present hown]
    obtain ⟨hen, haddr⟩ := hown
    simp only [hen, haddr, true_and, and_self, if_true]
    split_ifs <;> rfl
  · rw [driveAddress_bus_ext s i ab present hown, driveAddress_sl_ext s i ab present hown]
    rw [ownAddressed] at hown
    simp only [hown, false_and, if_false]

/-- Settles O48: each party that may answer, in the phase that calls for it. -/
theorem otherDevicesAnswerTheBus : Obligations.OtherDevicesAnswerTheBus := by
  refine fun s => ⟨fun hbus htgt => ?_, fun hbus htgt => ⟨?_, ?_⟩, fun hbus htgt ack => ?_, fun hbus htgt b => ?_⟩
  · rw [takeTurn, busStep, if_pos (by simp [busEnabled, hbus, htgt])]
    rfl
  · exact takeTurn_env (by simp [envEnabled, hbus, htgt])
  · exact (takeTurn_env (by simp [envEnabled, hbus, htgt])).trans (congrArg Host.Outcome.next (envXsAddr_ack hbus htgt))
  · rw [takeTurn_env (by simp [envEnabled, hbus, htgt])]
    cases ack <;> rfl
  · rw [takeTurn_env (by simp [envEnabled, hbus, htgt]), EnvStep.taken, supplyData_waiting hbus]

/-- Settles O49: each step of an external master, in the phase that calls for it. -/
theorem externalMastersDriveTheBus : Obligations.ExternalMastersDriveTheBus := by
  refine fun s => ⟨fun hbus a7 rw present => ?_, fun hinit hbus b => ?_, fun hinit hbus => ⟨?_, ?_⟩,
    fun hinit hbus => ⟨?_, fun a7 rw present => ⟨_, _, ?_, rfl, rfl⟩⟩⟩
  · exact takeTurn_env (by simp [envEnabled, hbus])
  · have hkept : { s.bus with phase := .wAckwait, init := .ext, byte := b } = { s.bus with phase := .wAckwait, byte := b } := by
      rw [← hinit]
    rw [takeTurn_env (by simp [envEnabled, hinit, hbus]), EnvStep.taken, driveData_eq, driveData_sl_eq, hkept]
    rfl
  · exact takeTurn_env (by simp [envEnabled, hinit, hbus])
  · refine ⟨_, takeTurn_env (by simp [envEnabled, hinit, hbus]), ?_⟩
    rw [EnvStep.taken, ← readAck_sl, ← readAck_eq]
    rfl
  · exact takeTurn_env (by simpa [envEnabled, hinit] using hbus)
  · exact takeTurn_env (by simpa [envEnabled, hinit] using hbus)

end

section
/-! PROOFS. An answer with a check's error is all that its operation has done (R322, R327, R329), and the interrupt output, a level
that only RESET and S.SERVICE lower (R32, R330, R332). -/

namespace Sys2Proof.Machine

/-! ### The answers of a failed check -/

/-- The codes of a ConfigurationError, of ST_CH_ALREADY_TAKEN and of ST_LIFECYCLE (R105). -/
def checkErrors : List Nat := [0x10, 0x11, 0x12, 0x13, 0x14, 0x40, 0x50]

theorem lt_of_mem_checkErrors {status : Nat} (h : status ∈ checkErrors) : status < 256 := by
  revert status
  decide

/-- The status is a field of the response word (R104). -/
theorem reply_status_inj {c c' : ChIdx} {info info' status status' : Nat} (h : status < 256) (h' : status' < 256)
    (e : reply c info status = reply c' info' status') : status = status' := by
  have e' := congrArg BitVec.toNat e
  simp only [reply, BitVec.toNat_ofNat] at e'
  omega

/-- A response with another status is not the answer of a failed check. -/
theorem reply_ne_checkError {st : Status} (hst : st.code.toNat ∉ checkErrors) {status : Nat} (h : status ∈ checkErrors)
    {c c' : ChIdx} {info info' : Nat} : reply c info st.code.toNat ≠ reply c' info' status := fun e =>
  hst (reply_status_inj st.code.isLt (lt_of_mem_checkErrors h) e ▸ h)

theorem chWaitStatus_no_checkError (e : ChErr) : (chWaitStatus e).code.toNat ∉ checkErrors := by
  cases e <;> decide

theorem mWaitStatus_no_checkError (f : MFault) (e : ChErr) : (mWaitStatus f e).code.toNat ∉ checkErrors := by
  cases f <;> cases e <;> decide

section
variable {s t u : State} {i : Instr}

/-- Two histories that end with an OP record of the same operation and are equal end with the same response. -/
theorem response_inj {l l' : List Rec} {w w' : Word} (h : l ++ [opRec i s w] = l' ++ [opRec i s w']) : w = w' := by
  have hlast := List.append_inj_right' h rfl
  simpa [opRec] using hlast

/-- An operation other than S.SERVICE that answers with a check's error has done nothing: each way of doing something answers with
ST_OK or with the result of a WAIT (R321, R322). -/
theorem opEffect_of_checkError {w : Word} (he : OpEffect s i w u) (hi : i ≠ .sService) {c : ChIdx} {status : Nat}
    (hstatus : status ∈ checkErrors) (hw : w = reply c 0 status) : u = s := by
  cases he with
  | unchanged => rfl
  | enabled | taken | armed | described | started | slaveEnabled =>
    exact absurd hw (reply_ne_checkError (st := .ok) (by decide) hstatus)
  | chWaited => exact absurd hw (reply_ne_checkError (chWaitStatus_no_checkError _) hstatus)
  | mWaited => exact absurd hw (reply_ne_checkError (mWaitStatus_no_checkError _ _) hstatus)
  | serviced => exact absurd rfl hi

/-- S.SERVICE has no check that fails (R242, R321). -/
theorem exec_sService_no_checkError (h : exec .sService s = .next t) {c : ChIdx} {before : List Rec} {status : Nat}
    (hstatus : status ∈ checkErrors) : t.trace ≠ s.trace ++ before ++ [opRec .sService s (reply c 0 status)] := by
  intro htrace
  obtain ⟨st, hst, before', htrace'⟩ := execSService_ends h
  have hno : ∀ st ∈ [Status.fatal, .wouldBlock, .ok], st.code.toNat ∉ checkErrors := by decide
  exact reply_ne_checkError (hno st hst) hstatus (response_inj (htrace'.symm.trans htrace))

/-! ### The interrupt output -/

theorem sIrq_iff (s : State) : s.sIrq = true ↔ s.sl.en = true ∧ s.sl.pend ≠ evNone ∧ s.sl.fatal = false := by
  simp [State.sIrq, and_assoc]

/-- An event that is pending stays, or gives way to another one (R282). -/
def PendingKept (x y : Slave) : Prop := x.pend ≠ evNone → y.pend ≠ evNone

theorem PendingKept.of_eq {x y : Slave} (h : y.pend = x.pend) : PendingKept x y := fun hp => h ▸ hp

theorem slaveLatch_pending {ev : EvCode} (hev : ev ≠ evNone) (s : State) : PendingKept s.sl (slaveLatch ev s).sl := by
  rw [slaveLatch_sl]
  split_ifs
  · exact fun _ => hev
  · exact id

theorem driveAddress_pending (s : State) (i : Initiator) (ab : Byte) (pr : Bool) :
    PendingKept s.sl (driveAddress i ab pr s).sl := by
  by_cases hown : ownAddressed s ab
  · rw [driveAddress_sl_own s i ab pr hown]
    split_ifs
    · exact fun _ => nofun
    · exact id
  · rw [driveAddress_sl_ext s i ab pr hown]
    exact id

theorem driveData_pending (s : State) (i : Initiator) (b : Byte) : PendingKept s.sl (driveData i b s).sl := by
  rw [driveData_sl]
  split_ifs
  · exact fun _ => nofun
  all_goals exact id

theorem afterAddrAck_pending (s : State) : PendingKept s.sl (afterAddrAck s).sl := by
  rw [afterAddrAck_sl]
  split_ifs
  · exact slaveLatch_pending (by decide) s
  · exact id

theorem readAck_pending (s : State) (d : Driver) : PendingKept s.sl (readAck d s).sl := by
  rw [readAck_sl]
  split_ifs
  · exact slaveLatch_pending (by decide) s
  · exact id

theorem mfuMove_pending {m : MfuStep} (hm : MfuMove s m t) : PendingKept s.sl t.sl := by
  cases hm with
  | startWon => exact driveAddress_pending s _ _ _
  | startLost =>
    rw [masterFault_sl]
    exact driveAddress_pending s _ _ _
  | wdriveWon => exact driveData_pending (s.setMe (byteTaken s.me)) _ _
  | wdriveLost =>
    rw [masterFault_sl]
    exact driveData_pending (s.setMe (byteTaken s.me)) _ _
  | rrespondAck => exact readAck_pending s _
  | waits | wdone | rrespondLast | nack | dabort => exact .of_eq rfl

theorem envMove_pending {e : EnvStep} (hm : EnvMove s e t) : PendingKept s.sl t.sl := by
  cases hm with
  | addrAck => exact afterAddrAck_pending (s.record _)
  | rdata => exact .of_eq (by rw [supplyData_sl])
  | masterStart => exact driveAddress_pending s _ _ _
  | masterData => exact driveData_pending s _ _
  | masterAck => exact readAck_pending s _
  | masterRestart => exact driveAddress_pending ((s.setBus { s.bus with tgt := .none }).setSl { s.sl with sel := .nsel }) _ _ _
  | wdata ack => cases ack <;> exact .of_eq rfl
  | timeout => exact .of_eq (by rw [envTimeout_eq]; rfl)
  | slaveFault code hcode => exact fun _ => (fault_code hcode).1
  | waits | addrNack | masterNack | masterStop => exact .of_eq rfl

/-- No agent and no outside party takes a pending event away (R330). -/
theorem takeTurn_agent_pending {turn : Turn} (hreset : turn ≠ .reset) (hhost : ∀ x, turn ≠ .host x)
    (ht : takeTurn turn s = .next t) : PendingKept s.sl t.sl := by
  cases turn with
  | host x => exact absurd rfl (hhost x)
  | seq c => cases ht; exact .of_eq (by rw [(seqStep_sl_bus c s).1])
  | mfu m => cases ht; exact mfuMove_pending (mfuStep_move m s)
  | bus =>
    cases ht
    have hm := busStep_move s
    generalize busStep s = t at hm
    cases hm <;> exact .of_eq rfl
  | env e => cases ht; exact envMove_pending (envStep_move e s)
  | reset => exact absurd rfl hreset
  | outside o =>
    have hm := outsideStep_move ht
    cases hm <;> exact .of_eq (by simp)

/-- An agent or an outside party does not lower the line (R330). -/
theorem takeTurn_agent_sIrq {turn : Turn} (hreset : turn ≠ .reset) (hhost : ∀ x, turn ≠ .host x)
    (ht : takeTurn turn s = .next t) (hirq : s.sIrq = true) : t.sIrq = true := by
  obtain ⟨hen, hpend, hfatal⟩ := (sIrq_iff s).1 hirq
  have hk := (takeTurn_agent_kept hreset hhost ht).session
  exact (sIrq_iff t).2 ⟨hk.en.trans hen, takeTurn_agent_pending hreset hhost ht hpend, hk.fatal.trans hfatal⟩

/-- While the slave is enabled, an operation other than S.SERVICE leaves it alone (R240, R241). -/
theorem exec_sl_of_enabled (h : exec i s = .next t) (hi : i ≠ .sService) (hen : s.sl.en = true) : t.sl = s.sl := by
  obtain ⟨w, u, hu, rfl⟩ | ⟨k, -, rfl⟩ := exec_outcome h
  · rw [record_sl]
    cases hu with
    | serviced => exact absurd rfl hi
    | slaveEnabled _ _ hoff => exact absurd (hoff.symm.trans hen) nofun
    | _ => simp
  · simp

theorem sIrq_congr (h : t.sl = s.sl) : t.sIrq = s.sIrq := by rw [State.sIrq, State.sIrq, h]

/-- A turn of the host that lowers the line issues S.SERVICE (R330). -/
theorem hostMove_serves_of_lowers {x : Ctx} (hm : HostMove x s t) (hirq : s.sIrq = true) (hlow : t.sIrq = false) :
    ∃ p rest, s.ctx x = ⟨p :: rest, none⟩ ∧ decode p = some .sService := by
  have hsl : t.sl ≠ s.sl := fun e => nomatch hlow.symm.trans ((sIrq_congr e).trans hirq)
  cases hm with
  | passes | staysBlocked => exact absurd rfl hsl
  | chWaitEnds | mWaitEnds => exact absurd (by simp [State.waitReturned]) hsl
  | rejects => exact absurd (by simp) hsl
  | executes p rest i t hp hd he =>
    refine ⟨p, rest, hp, ?_⟩
    rw [hd]
    by_contra hi
    have hen : ((s.setCtx x ⟨rest, none⟩).setCur x).sl.en = true := by simpa using ((sIrq_iff s).1 hirq).1
    exact hsl (by simpa using exec_sl_of_enabled he (fun e => hi (e ▸ rfl)) hen)

/-- Every turn but RESET (R330): the slave stays enabled, so a line that falls has lost its event or is in Fault. -/
theorem takeTurn_lowers {turn : Turn} (hreset : turn ≠ .reset) (ht : takeTurn turn s = .next t) (hirq : s.sIrq = true)
    (hlow : t.sIrq = false) :
    (t.sl.pend = evNone ∨ t.sl.fatal = true) ∧
      ∃ x p rest, turn = .host x ∧ s.ctx x = ⟨p :: rest, none⟩ ∧ decode p = some .sService := by
  constructor
  · obtain ⟨hen, -⟩ := (takeTurn_persists hreset ht).slave ((sIrq_iff s).1 hirq).1
    by_contra hno
    obtain ⟨hpend, hfatal⟩ := not_or.1 hno
    exact nomatch hlow.symm.trans ((sIrq_iff t).2 ⟨hen, hpend, Bool.eq_false_iff.2 hfatal⟩)
  · by_cases hhost : ∃ x, turn = .host x
    · obtain ⟨x, rfl⟩ := hhost
      obtain ⟨p, rest, hctx, hd⟩ := hostMove_serves_of_lowers (hostTurn_move ht) hirq hlow
      exact ⟨x, p, rest, rfl, hctx, hd⟩
    · exact nomatch hlow.symm.trans (takeTurn_agent_sIrq hreset (fun x e => hhost ⟨x, e⟩) ht hirq)

/-- The slave after an underrun: the event stays pending under STALL and is cleared under DRAW (R247). -/
theorem serviceUnderrun_sl (s : State) :
    (serviceUnderrun s).sl =
      { s.sl with state := .transmittingByte, pend := if s.par.txUnderrun = .stall then s.sl.pend else evNone } := by
  cases hpolicy : s.par.txUnderrun <;> simp [serviceUnderrun, hpolicy]

/-- The line after an S.SERVICE issued while it was 1 (R330, R332). -/
theorem exec_sService_sIrq (h : exec .sService s = .next t) (hirq : s.sIrq = true) :
    t.sIrq = true ↔
      (s.sl.pend = evAddrMatch ∧ s.bus.phase = .addr ∧ s.bus.rw = .r ∧ s.bus.tgt = .ownSlv) ∨
      (s.sl.pend = evTxReady ∧ s.sl.lastValid = false ∧ s.par.txUnderrun = .stall) := by
  obtain ⟨hclk, -⟩ := withInputs_next h
  obtain ⟨hen, hnone, hfatal⟩ := (sIrq_iff s).1 hirq
  rw [exec_sService_pending hclk hfatal hen hnone] at h
  split_ifs at h with haddr hrx htx hvalid
  all_goals rw [sIrq_iff, serviced_sl h]
  · rw [serviceAddrMatch_sl hfatal]
    simp [hen, hfatal, haddr, evAddrMatch, evTxReady, evNone]
  · rw [serviceRxReady_eq]
    simp [hrx, evAddrMatch, evRxReady, evTxReady]
  · rw [serviceTxReady_sl]
    simp [htx, hvalid, evAddrMatch, evTxReady]
  · rw [serviceUnderrun_sl]
    simp [hen, hfatal, htx, hvalid, evAddrMatch, evTxReady, evNone]
  · simp [serviceFault, haddr, htx]

end

end Sys2Proof.Machine

open Sys2Proof Sys2Proof.Machine

/-- Settles O31: by the ways an operation ends; the records that end the history are one. -/
theorem errorAnswersChangeNothing : Obligations.ErrorAnswersChangeNothing := by
  intro i s t c before status h hstatus htrace
  have hi : i ≠ .sService := by
    rintro rfl
    exact exec_sService_no_checkError h hstatus htrace
  obtain ⟨w, u, hu, rfl⟩ | ⟨k, -, rfl⟩ := exec_outcome h
  · have hw : w = reply c 0 status := response_inj htrace
    obtain rfl := opEffect_of_checkError hu hi hstatus hw
    rw [hw]
    rfl
  · simp at htrace

/-- Settles O60: the agents and the other operations keep the event; the line after S.SERVICE by the code it has read. -/
theorem theInterruptLineIsALevel : Obligations.TheInterruptLineIsALevel := by
  refine ⟨sIrq_iff, fun turn s t hreset ht hirq hlow => ?_, fun s t h hirq => exec_sService_sIrq h hirq⟩
  obtain ⟨hwhy, x, p, rest, hturn, hctx, hd⟩ := takeTurn_lowers hreset ht hirq hlow
  exact ⟨hwhy, x, p, rest, hturn, by rw [hctx], by rw [hctx], hd⟩

end

section
/-! PROOFS. The RESET step (R360): the registers at their reset values, and everything that RESET keeps. -/

open Sys2Proof Sys2Proof.Machine

/-- Settles O7: the state RESET leaves is `resetEngine s`, which writes registers alone and keeps the number of channels. -/
theorem resetStepGivesTheResetValues : Obligations.ResetStepGivesTheResetValues := by
  intro s
  have hvalues : ResetValues (resetEngine s) := resetEngine_resetValues s
  have hchannels : (resetEngine s).nCh = s.nCh := (grows_resetEngine s).nCh
  exact ⟨resetEngine s, rfl, hvalues, rfl, fun _ => rfl, rfl, rfl, rfl, rfl, hchannels⟩

end
